-- ==== Sys2Proof/Word.lean ====
section
/-! DEFINITION. The plain value types of the block: bytes, pixel coordinates, signal levels, the answers of the
environment, the events of a trace and the responses (00_scope.md R9, R11; 30_encoding.md R94; 41_frame_primitives.md
R161 to R165; 60_exceptions.md R240). -/

namespace Sys2Proof

/-- A byte: 8 bits, bit 0 the least significant (R9). -/
abbrev Byte := BitVec 8

/-- The level of a binary output (R162, R163). -/
inductive Level where
  | low
  | high
deriving DecidableEq, Repr, Inhabited

/-- The capability's own error value `e`, opaque to the block (R240, R242): a number names it (log 33). -/
abbrev ErrVal := Nat

/-- What the environment does with one capability call (R165, R246, R292). -/
inductive Answer where
  /-- the call returns `ok` -/
  | ok
  /-- the call returns `fail(e)`; `done` is how much of its effect took place all the same (R246, U7): for a bus
  write the number of bytes delivered, for a pin write 0 (not moved) or more (moved) -/
  | fail (e : ErrVal) (done : Nat)
  /-- the call never returns (R292); `done` as for `fail` -/
  | never (done : Nat)
deriving DecidableEq, Repr, Inhabited

/-- One capability call as the trace records it (R11). -/
inductive Event where
  | rst (level : Level)
  | dc (level : Level)
  | bus (run : List Byte)
  | dly (us : BitVec 32)
deriving DecidableEq, Repr

/-- The three error kinds, tagged by origin (R240). -/
inductive ErrKind where
  | bus
  | dcPin
  | rstPin
deriving DecidableEq, Repr

/-- The response to a request (R27, R94). -/
inductive Response where
  | ok
  /-- `OK` with the payload of `fb.bytes` -/
  | bytes (payload : List Byte)
  | error (kind : ErrKind) (e : ErrVal)
deriving DecidableEq, Repr

/-- The values of the conceptual protocol state `PST` (R200). -/
inductive Pst where
  | unknown
  | reset
  | ready
deriving DecidableEq, Repr

end Sys2Proof
end

