-- ==== Sys2Proof/Config.lean ====
section
/-! DEFINITION. What is fixed for the hardware: the constants the source gives (00_scope.md R7), and the FREE VALUES,
constants with no body, of everything the spec leaves open (93_implementation_defined.md); and the type of the parameters
the source leaves open (R8), whose defaults stand in Machine/Params.lean. -/

namespace Sys2Proof.Config

/-- Columns (R7). -/
abbrev width : Nat := 84
/-- Rows (R7). -/
abbrev height : Nat := 48
/-- Banks of 8 pixel rows (R7). -/
abbrev banks : Nat := 6
/-- Bytes of `FB` and of the display RAM (R7). -/
abbrev bufSize : Nat := 504
/-- Base of the Function Set command byte (R7). -/
abbrev functionSet : Byte := 0x20
/-- Bit 2 of the Function Set byte (R7). -/
abbrev powerDown : Byte := 0x04
/-- Bit 1 of the Function Set byte (R7). -/
abbrev addressingVert : Byte := 0x02
/-- Bit 0 of the Function Set byte (R7). -/
abbrev extendedInstr : Byte := 0x01
/-- Base of the Set-Vop command byte (R7). -/
abbrev setVop : Byte := 0x80
/-- Base of the column-address command byte (R7). -/
abbrev setX : Byte := 0x80
/-- Base of the bank-address command byte (R7). -/
abbrev setY : Byte := 0x40
/-- The display-mode command byte, normal mode (R7). -/
abbrev displayNormal : Byte := 0x0C
/-- Contrast is masked to 7 bits (R7). -/
abbrev vopMask : Byte := 0x7F
/-- Microseconds held after each edge of the reset line (R7). -/
abbrev resetHoldUs : BitVec 32 := 100

/-- FREE VALUE: the environment's answer to a capability call, once the script of `State.answers` is used up
(R165: the block cannot predict it; log 21). -/
opaque answer : Nat → Answer

/-- FREE VALUE: the level of command/data-select after a block reset, before it is first driven (R34, R36; log 2). -/
opaque dcAtReset : Nat → Level
/-- FREE VALUE: the level of the reset line after a block reset, before it is first driven (R34, R36; log 2). -/
opaque rstAtReset : Nat → Level

/-- FREE VALUE: the device's power-down flag where nothing fixes it (R36, R64; log 3). -/
opaque freePd : Nat → Bool
/-- FREE VALUE: the device's vertical-addressing flag where nothing fixes it (log 3). -/
opaque freeV : Nat → Bool
/-- FREE VALUE: the device's extended-instruction-set flag where nothing fixes it (log 3). -/
opaque freeH : Nat → Bool
/-- FREE VALUE: the cursor's column where nothing fixes it (R36, R64, U3; log 3, log 24). -/
opaque freeCol : Nat → Fin 84
/-- FREE VALUE: the cursor's bank where nothing fixes it (R36, R64, U3; log 3, log 24). -/
opaque freeBank : Nat → Fin 6
/-- FREE VALUE: whether the display mode is the normal one where nothing fixes it (log 3). -/
opaque freeNormal : Nat → Bool
/-- FREE VALUE: the Vop setting where nothing fixes it (log 3). -/
opaque freeVop : Nat → BitVec 7
/-- FREE VALUE: the bias setting where nothing fixes it (log 3). -/
opaque freeBias : Nat → Byte
/-- FREE VALUE: the temperature-coefficient setting where nothing fixes it (log 3). -/
opaque freeTemp : Nat → Byte
/-- FREE VALUE: the contents of a cell of the DDRAM where nothing fixes them: draw, then cell (R36, R64, U10; log 5). -/
opaque freeDdram : Nat → Nat → Byte

end Sys2Proof.Config

namespace Sys2Proof

/-- `VERT_STEP`: how the device's cursor steps in vertical addressing (R8, R61, U11; log 20). -/
inductive VertStep where
  /-- bank + 1; after bank 5, bank 0 of the next column; after bank 5 of column 83, bank 0 of column 0: the default -/
  | bankThenColumn
  /-- any other stepping: the next cell of each of the 504 cells -/
  | table (next : List Nat)
deriving DecidableEq, Repr

/-- The parameters the source leaves open (R8). A machine has one value of each, held in `State.cfg`, which nothing
changes (log 40). -/
structure Params where
  /-- `COORD_W`: bits of the signed coordinate fields of the request port (D5) -/
  coordW    : Nat
  /-- `X_MASK`: mask of the `x` operand of `lcd.position` (D6) -/
  xMask     : Byte
  /-- `Y_MASK`: mask of the `y` operand of `lcd.position` (D6) -/
  yMask     : Byte
  /-- `FUNC_RESET`: `FUNC` at construction and the default `lcd.init` restores (D7) -/
  funcReset : Byte
  /-- `INIT_VOP` (D8) -/
  initVop   : Byte
  /-- `INIT_BIAS` (D8) -/
  initBias  : Byte
  /-- `INIT_TEMP` (D8) -/
  initTemp  : Byte
  /-- `RST_ACTIVE`: the level of the reset line that the source calls active (D9) -/
  rstActive : Level
  /-- `ERR_BUS` (D16) -/
  errBus    : BitVec 2
  /-- `ERR_DC` (D16) -/
  errDc     : BitVec 2
  /-- `ERR_RST` (D16) -/
  errRst    : BitVec 2
  /-- the selector values: for each number on the request port, 0 to 15, the number the table of R91 gives that
  operation (D1) -/
  numbering : List (BitVec 4)
  /-- `VERT_STEP` (D24) -/
  vertStep  : VertStep
deriving DecidableEq, Repr

end Sys2Proof
end

