-- ==== Sys2Proof/Machine/Params.lean ====
section
/-! DEFINITION. The defaults of the parameters the source leaves open (00_scope.md R8; 92_eei_decisions.md D1, D5 to D9,
D16, D24), and what is read off a set of parameters. A statement that rests on a default names it. -/

namespace Sys2Proof

/-- The default of every parameter (R8). DESIGN CHOICE of the spec but for `FUNC_RESET`, DEDUCED (D7, log 8), and
`RST_ACTIVE` and `VERT_STEP`, PRESUMED (D9, log 10; D24, log 20). -/
def Params.default : Params :=
  { coordW := 32, xMask := 0x7F, yMask := 0x07, funcReset := 0x20, initVop := 0x3F, initBias := 0x14, initTemp := 0x06,
    rstActive := .low, errBus := 1, errDc := 2, errRst := 3,
    numbering := [0, 1, 2, 3, 4, 5, 6, 7, 8, 9, 10, 11, 12, 13, 14, 15], vertStep := .bankThenColumn }

/-- The other level of the reset line, which the source calls inactive (R163). -/
def Params.rstInactive (p : Params) : Level :=
  match p.rstActive with
  | .low => .high
  | .high => .low

/-- The number of R91 that a number on the request port stands for (D1). -/
def Params.row (p : Params) (op : BitVec 4) : BitVec 4 :=
  p.numbering.getD op.toNat op

/-- The number on the request port of the operation with a number of R91 (D1). -/
def Params.portNumber (p : Params) (row : BitVec 4) : BitVec 4 :=
  BitVec.ofNat 4 (p.numbering.idxOf row)

/-- The status code of an error kind (D16, log 15). -/
def Params.errCode (p : Params) (k : ErrKind) : BitVec 2 :=
  match k with
  | .bus => p.errBus
  | .dcPin => p.errDc
  | .rstPin => p.errRst

/-- The default stepping of the cursor in vertical addressing (R61). PRESUMED (D24, G6, log 20). -/
def columnByColumn (col : Fin 84) (bank : Fin 6) : Fin 84 × Fin 6 :=
  if bank = 5 then (col + 1, 0) else (col, bank + 1)

/-- The cursor at a cell of the DDRAM, in the storage order of R51; cells are counted modulo 504. -/
def cursorAt (cell : Nat) : Fin 84 × Fin 6 :=
  (⟨cell % 504 % 84, by omega⟩, ⟨cell % 504 / 84, by omega⟩)

/-- The cursor after a step in vertical addressing (R61). -/
def VertStep.apply (v : VertStep) (col : Fin 84) (bank : Fin 6) : Fin 84 × Fin 6 :=
  match v with
  | .bankThenColumn => columnByColumn col bank
  | .table next => cursorAt (next.getD (bank.val * 84 + col.val) 0)

end Sys2Proof
end

