-- ==== Sys2Proof/Syntax.lean ====
section
/-! DEFINITION. The instructions of the block and of the device behind it: one constructor per row of
spec/opcode_table.json; the request the host makes (30_encoding.md R92) and a byte on the bus (R96 to R98). -/

namespace Sys2Proof

/-- The operations of the request port (space `host_op`, R91), the command bytes (space `bus_cmd`, R99 to R104) and the
data byte (space `bus_data`, R228). Operands have the widths of R26 and R99 to R104; pixel coordinates are integers
(D5, log 6). -/
inductive Instr where
  /-- `fb.new`, selector 0x0 (R131) -/
  | fbNew
  /-- `fb.set_pixel`, selector 0x1 (R132) -/
  | fbSetPixel (x y : Int) (on : Bool)
  /-- `fb.clear`, selector 0x2 (R139) -/
  | fbClear (on : Bool)
  /-- `fb.bytes`, selector 0x3 (R140) -/
  | fbBytes
  /-- `lcd.reset`, selector 0x4 (R183) -/
  | lcdReset
  /-- `lcd.init`, selector 0x5 (R185) -/
  | lcdInit
  /-- `lcd.addressing_horizontal`, selector 0x6 (R191) -/
  | lcdAddressingHorizontal (horizontal : Bool)
  /-- `lcd.contrast`, selector 0x7 (R192) -/
  | lcdContrast (contrast bias temp : Byte)
  /-- `lcd.position`, selector 0x8 (R194) -/
  | lcdPosition (x y : Byte)
  /-- `lcd.clear`, selector 0x9 (R195) -/
  | lcdClear
  /-- `lcd.data`, selector 0xA (R168) -/
  | lcdData (run : List Byte)
  /-- selector 0xB, reserved (R95) -/
  | reserved0xB
  /-- selectors 0xC to 0xF, reserved (R95); `low` is `op[1:0]` -/
  | reserved0xCto0xF (low : BitVec 2)
  /-- `FUNCTION_SET`, 00100PVH (R99, R221) -/
  | functionSet (pd v h : Bool)
  /-- `TEMP`, the operand byte itself (R104, R223) -/
  | temp (t : Byte)
  /-- `BIAS`, the operand byte itself (R104, R224) -/
  | bias (b : Byte)
  /-- `SET_VOP`, 1vvvvvvv (R100, R222) -/
  | setVop (v : BitVec 7)
  /-- `SET_X`, 1xxxxxxx (R101, R225) -/
  | setX (x : BitVec 7)
  /-- `SET_Y`, 01000yyy (R102, R226) -/
  | setY (y : BitVec 3)
  /-- `DISPLAY_NORMAL`, 00001100 (R103, R227) -/
  | displayNormal
  /-- `DATA_BYTE`, one byte of a data frame (R228) -/
  | dataByte (d : Byte)
deriving DecidableEq, Repr

/-- A request: one transfer on the request port (R92). Its fields are the operand latches (R26). `a` and `b` are the
numbers the host puts on the two signed fields of `COORD_W` bits: the port carries their low `COORD_W` bits, and the
decoder reads those (log 6). -/
structure Request where
  op  : BitVec 4
  a   : Int
  b   : Int
  c   : Byte
  f   : Bool
  run : List Byte
deriving DecidableEq, Repr

/-- Which frame of the Controller's step lists a bus byte belongs to. The table identifies a `TEMP` or a `BIAS` byte by
its position, the second and the third frame of `lcd.contrast`, and tells `SET_VOP` from `SET_X` by the instruction set,
not by a pattern of bits (R104, R108, R112; log 25). -/
inductive Frame where
  | functionSet
  | temp
  | bias
  | setVop
  | setX
  | setY
  | displayNormal
  | data
deriving DecidableEq, Repr

/-- A byte the serial sink has delivered: the level of command/data-select during the write (R98), the byte, and the
frame it belongs to. -/
structure WireByte where
  dc    : Level
  byte  : Byte
  frame : Frame
deriving DecidableEq, Repr

/-- What the decoder reads: a request of the host or a byte on the bus (the two encodings of R90). -/
inductive Coded where
  | request (r : Request)
  | wire (w : WireByte)
deriving DecidableEq, Repr

end Sys2Proof
end

