-- ==== Sys2Proof/Machine/State.lean ====
section
/-! DEFINITION. The state of the block and of what stands behind it, as plain data; the state after block reset
(10_state.md R20 to R36, 20_memory.md R50, R58); why a step can stop. -/

namespace Sys2Proof.Machine

/-- A memory: its listed bytes, addresses strictly rising. -/
abbrev Mem := List Host.Cell

/-- The display mode in force on the device: the normal one, or one of those the spec leaves outside (R103, R227). -/
inductive DisplayMode where
  | normal
  | other
deriving DecidableEq, Repr

/-- The device behind the bus (R33, R58 to R64). Outside the block; write-only to it. -/
structure Device where
  /-- power-down flag of the device's function register (R221) -/
  pd : Bool
  /-- vertical-addressing flag (R221) -/
  v : Bool
  /-- extended-instruction-set flag (R63, R221) -/
  h : Bool
  /-- cursor column (R59) -/
  col : Fin 84
  /-- cursor bank (R59) -/
  bank : Fin 6
  /-- DDRAM: its 504 cells, each with its byte (R58; log 5) -/
  ddram : Mem
  /-- display mode (R227) -/
  mode : DisplayMode
  /-- Vop setting (R222) -/
  vop : BitVec 7
  /-- bias setting: the byte last sent (R224, U4) -/
  bias : Byte
  /-- temperature-coefficient setting: the byte last sent (R223, U4) -/
  temp : Byte
deriving DecidableEq, Repr

/-- The DDRAM with free contents: every cell holds a byte, which nothing fixes (R36, R58, R64, U10; log 5). -/
def Mem.arbitrary (k : Nat) : Mem :=
  (List.range Config.bufSize).map (fun a => (a, Config.freeDdram k a))

/-- A device of which nothing is known: every register and every cell of the DDRAM a free value (R36, R64, U1, U10;
log 3, log 5). `k` numbers the draw. -/
def Device.arbitrary (k : Nat) : Device :=
  { pd := Config.freePd k, v := Config.freeV k, h := Config.freeH k, col := Config.freeCol k, bank := Config.freeBank k,
    ddram := Mem.arbitrary k, mode := if Config.freeNormal k then .normal else .other, vop := Config.freeVop k,
    bias := Config.freeBias k, temp := Config.freeTemp k }

/-- A request the host has still to make, and after how many capability calls its environment abandons the operation
(R201, R249, D17; log 16): none, the operation runs to its response. -/
structure Pending where
  request   : Request
  abandonAt : Option Nat
deriving DecidableEq, Repr

/-- The sequencer position: the operation in progress, and the index of the next capability call in its expanded step
list (R28). -/
structure Position where
  op    : Instr
  index : Nat
deriving DecidableEq, Repr

/-- The contrast settings an operation has programmed (R202, R222 to R224). -/
structure Contrast where
  vop  : BitVec 7
  bias : Byte
  temp : Byte
deriving DecidableEq, Repr

structure State where
  /-- the parameters of the machine (R8); nothing changes them (log 40) -/
  cfg : Params
  /-- `FB`: the bytes that are not 0x00 (R22; log 4) -/
  fb : Mem
  /-- `FUNC` (R23) -/
  func : Byte
  /-- the sequencer position; none, the block is idle (R28) -/
  seq : Option Position
  /-- the level last driven on command/data-select (R34) -/
  dcPin : Level
  /-- the level last driven on the reset line (R34) -/
  rstPin : Level
  /-- the answers the environment will give to the next capability calls (R165; log 21) -/
  answers : List Answer
  /-- the plan of the environment to abandon the operation being executed (log 16) -/
  abandonAt : Option Nat
  /-- the requests the host has still to make, the next one first (R290; log 27) -/
  pending : List Pending
  /-- the responses given, the oldest first (R292) -/
  responses : List Response
  /-- the capability calls made, the oldest first (R11, R292) -/
  trace : List Event
  /-- the ghost `PST` (R200) -/
  pst : Pst
  /-- the ghost of R202: the contrast of the last successful `lcd.contrast` or `lcd.init`, if there has been one
  (log 17) -/
  contrast : Option Contrast
  /-- the bytes the sink has delivered and the device has not yet taken, the oldest first (R72; log 1) -/
  wire : List WireByte
  /-- the device behind the bus (R33) -/
  dev : Device
  /-- the MODEL's own: how many free values have been drawn (log 37) -/
  draws : Nat
deriving DecidableEq, Repr

/-- Why the machine stops with a fault. -/
inductive Fault where
  /-- A capability call has not returned and never will (R292, D25): the operation has no end and the block accepts no
  further request. Raised by `step` when an operation is in progress and the device has taken every delivered byte.
  Safe: the machine stops where the hardware hangs. -/
  | capabilityCallNeverReturned
deriving DecidableEq, Repr

/-- Why an instruction has no meaning. -/
inductive Refusal where
  /-- An instruction the model does not reach; no arm of `exec` answers it. Safe. -/
  | notModelled (mnemonic : String)
  /-- A request whose selector is reserved, 0xB to 0xF (R95, U9): the spec gives it no meaning. Raised by the meanings
  of the two reserved rows. Safe. -/
  | reservedSelector (op : BitVec 4)
deriving DecidableEq, Repr

/-- The machine right after block reset: `FB` all zero, `FUNC = FUNC_RESET`, the parameters at their defaults, no operation in
progress, the trace empty, `PST` unknown, pins and device unknown (R36, R180, R270, R271). -/
def State.reset : State :=
  { cfg := Params.default, fb := [], func := Params.default.funcReset, seq := none, dcPin := Config.dcAtReset 0,
    rstPin := Config.rstAtReset 0, answers := [], abandonAt := none, pending := [], responses := [], trace := [],
    pst := .unknown, contrast := none, wire := [], dev := Device.arbitrary 0, draws := 1 }

end Sys2Proof.Machine
end

