-- ==== Sys2Proof/Machine/Flags.lean ====
section
/-! DEFINITION. The three control flags of `FUNC`, read and changed one at a time, every other bit kept (10_state.md
R23). The block has no condition flags: no instruction sets a flag as a side effect (R29). -/

namespace Sys2Proof.Machine

/-- `FUNC.PD`, bit 2 (R23). -/
def flagPd (func : Byte) : Bool := func.getLsbD 2

/-- `FUNC.V`, bit 1: vertical addressing (R23). -/
def flagV (func : Byte) : Bool := func.getLsbD 1

/-- `FUNC.H`, bit 0: extended instruction set (R23). -/
def flagH (func : Byte) : Bool := func.getLsbD 0

/-- `FUNC` with `V <- NOT horizontal` (R105, R191, C1). -/
def withHorizontal (func : Byte) (horizontal : Bool) : Byte :=
  if horizontal then func &&& ~~~Config.addressingVert else func ||| Config.addressingVert

/-- `FUNC` with `H <- 1` (R192). -/
def withExtended (func : Byte) : Byte :=
  func ||| Config.extendedInstr

/-- `FUNC` with `H <- 0` (R192, C4). -/
def withBasic (func : Byte) : Byte :=
  func &&& ~~~Config.extendedInstr

end Sys2Proof.Machine
end

