-- ==== Sys2Proof/Machine/Memory.lean ====
section
/-! DEFINITION. The two memories: `FB` in the block and DDRAM in the device (20_memory.md R50, R68, R70). One canonical
form: addresses strictly rising, every address below 504; in `FB` no entry equal to what an unlisted address reads as, and
every cell of the DDRAM listed. -/

namespace Sys2Proof.Machine

/-- The byte listed at an address. -/
def Mem.find (m : Mem) (a : Nat) : Option Byte :=
  match m with
  | [] => none
  | (k, v) :: rest => if k = a then some v else Mem.find rest a

/-- The memory with the byte at `a` listed as `v`, in rising order of addresses. -/
def Mem.put (m : Mem) (a : Nat) (v : Byte) : Mem :=
  match m with
  | [] => [(a, v)]
  | (k, w) :: rest =>
    if a < k then (a, v) :: (k, w) :: rest
    else if a = k then (a, v) :: rest
    else (k, w) :: Mem.put rest a v

/-- The memory with nothing listed at `a`. -/
def Mem.drop (m : Mem) (a : Nat) : Mem :=
  match m with
  | [] => []
  | (k, w) :: rest => if k = a then Mem.drop rest a else (k, w) :: Mem.drop rest a

/-- Addresses strictly rising, all of them addresses of a 504-byte memory. -/
abbrev Mem.sorted (m : Mem) : Prop :=
  m.Pairwise (fun p q => p.1 < q.1) ∧ ∀ c ∈ m, c.1 < Config.bufSize

/-! ## `FB`: an unlisted byte is 0x00 (R36) -/

/-- What an unlisted byte of `FB` reads as: its reset contents (R36). -/
def fbUnlisted : Byte := 0x00

/-- The canonical form of `FB`. -/
abbrev Mem.wf (m : Mem) : Prop :=
  Mem.sorted m ∧ ∀ c ∈ m, c.2 ≠ fbUnlisted

/-- `FB[i]` (R10). -/
def fbRead (m : Mem) (i : Nat) : Byte :=
  (Mem.find m i).getD fbUnlisted

/-- `FB[i] <- v` (R10). -/
def fbWrite (m : Mem) (i : Nat) (v : Byte) : Mem :=
  if v = fbUnlisted then Mem.drop m i else Mem.put m i v

/-- `FB[i] <- v` for every `i` in 0..503 (R68, R139). -/
def fbFill (v : Byte) : Mem :=
  if v = fbUnlisted then [] else (List.range Config.bufSize).map (fun i => (i, v))

/-- `MemRead(0, 504)` (R10, R140): the bytes of `FB` in index order. -/
def fbAll (m : Mem) : List Byte :=
  (List.range Config.bufSize).map (fbRead m)

/-! ## DDRAM: all 504 cells are listed (R58; log 5) -/

/-- The canonical form of the DDRAM: its 504 cells in rising order. -/
abbrev Mem.full (m : Mem) : Prop :=
  m.map Prod.fst = List.range Config.bufSize

/-- The byte of a cell of the DDRAM; none, there is no such cell. The block cannot read it (R58); statements can. -/
def ddramRead (m : Mem) (a : Nat) : Option Byte :=
  Mem.find m a

/-- The byte of a data frame stored in a cell (R60). -/
def ddramWrite (m : Mem) (a : Nat) (v : Byte) : Mem :=
  Mem.put m a v

end Sys2Proof.Machine
end

