-- ==== Sys2Proof/Machine/Operands.lean ====
section
/-! DEFINITION. How each operand becomes bits (30_encoding.md R105), the coordinate transform (40_framebuffer_ops.md
R132 to R137) and the fields of the response port (R94). -/

namespace Sys2Proof.Machine

/-! ## Pixels -/

/-- The bounds test of `fb.set_pixel`, on the operands as given (R132). -/
def pixelInRange (x y : Int) : Bool :=
  0 ≤ x && x < Config.width && 0 ≤ y && y < Config.height

/-- Transform step 1: the un-rotated byte offset (R133). -/
def pixelUnrotated (x y : Nat) : Nat :=
  y / 8 * Config.width + x

/-- Transform step 2: the byte index after the rotation by 180 degrees (R134). -/
def pixelIndex (x y : Nat) : Nat :=
  Config.bufSize - 1 - pixelUnrotated x y

/-- Transform step 3: the mask of the pixel within its byte (R135). -/
def pixelMask (y : Nat) : Byte :=
  0x80#8 >>> (y % 8)

/-- Transform step 4: the byte with the pixel set or cleared (R136). -/
def pixelByte (old : Byte) (y : Nat) (on : Bool) : Byte :=
  if on then old ||| pixelMask y else old &&& ~~~pixelMask y

/-- The byte of `fb.clear` (R105, R139). -/
def fillByte (on : Bool) : Byte :=
  if on then 0xFF else 0x00

/-! ## Command bytes -/

/-- The Set-Vop byte of a contrast: `0x80 | (contrast & 0x7F)` (R100, R222). -/
def vopByte (contrast : Byte) : Byte :=
  Config.setVop ||| (contrast &&& Config.vopMask)

/-- The column-address byte: `0x80 | (x & X_MASK)` (R101, R225). -/
def columnByte (p : Params) (x : Byte) : Byte :=
  Config.setX ||| (x &&& p.xMask)

/-- The bank-address byte: `0x40 | (y & Y_MASK)` (R102, R226). -/
def bankByte (p : Params) (y : Byte) : Byte :=
  Config.setY ||| (y &&& p.yMask)

/-! ## The response port (R94) -/

/-- `status[1:0]`: 0 `OK`, else the code of the error kind. -/
def responseStatus (p : Params) (r : Response) : BitVec 2 :=
  match r with
  | .ok => 0
  | .bytes _ => 0
  | .error k _ => p.errCode k

/-- `err`, meaningful only when the status is not 0. -/
def responseErr (r : Response) : Option ErrVal :=
  match r with
  | .ok => none
  | .bytes _ => none
  | .error _ e => some e

/-- `payload`, meaningful only for `fb.bytes`. -/
def responsePayload (r : Response) : Option (List Byte) :=
  match r with
  | .ok => none
  | .bytes p => some p
  | .error _ _ => none

end Sys2Proof.Machine
end

