-- ==== Sys2Proof/Machine/Ops.lean ====
section
/-! DEFINITION. The named operations every meaning is made of: the capability calls and their answers
(41_frame_primitives.md R161 to R165), the frames (R166, R167), the Function Set mutator (42_controller_ops.md R188),
the sequencing of an operation (R28, R181), and how an operation ends: its response, the abort at the first failing call
(60_exceptions.md R244), the return to the host, an abandoned operation (R201, R249). The block has no other exception
and no return from one (R248). -/

namespace Sys2Proof.Machine

/-! ## Named updates of the state -/

/-- A capability call enters the trace (R11; log 32). -/
def record (ev : Event) (s : State) : State := { s with trace := s.trace ++ [ev] }

/-- The position after a capability call that has returned (R28). -/
def Position.next (k : Position) : Position := { k with index := k.index + 1 }

/-- The sequencer moves to the next capability call (R28). -/
def advance (s : State) : State := { s with seq := s.seq.map Position.next }

/-- `FUNC <- v` (R10). -/
def setFunc (v : Byte) (s : State) : State := { s with func := v }

/-- `FB <- m`. -/
def setFb (m : Mem) (s : State) : State := { s with fb := m }

/-- A response is given to the host (R27). -/
def respond (r : Response) (s : State) : State := { s with responses := s.responses ++ [r] }

/-- Nothing is known of the device any more (R64, U1, U7). -/
def loseDevice (s : State) : State := { s with dev := Device.arbitrary s.draws, draws := s.draws + 1 }

/-! ## How far an operation has come -/

/-- An operation while it is carried out (R28). -/
inductive Run where
  /-- every call so far has returned `ok` -/
  | going (s : State)
  /-- a call has returned `fail(e)`: the operation is aborted (R244) -/
  | raised (k : ErrKind) (e : ErrVal) (s : State)
  /-- the environment has abandoned the operation (R249) -/
  | abandoned (s : State)
  /-- a call has not returned (R292) -/
  | waiting (s : State)
deriving DecidableEq, Repr

/-- The next steps of an operation, made only if it is still going: the early exit of R181, R244. -/
def Run.andThen (r : Run) (f : State → Run) : Run :=
  match r with
  | .going s => f s
  | .raised k e s => .raised k e s
  | .abandoned s => .abandoned s
  | .waiting s => .waiting s

/-- The environment abandons the operation once this many of its calls have returned (R249; log 16). -/
def abandonDue (s : State) : Bool :=
  match s.abandonAt with
  | none => false
  | some k =>
    match s.seq with
    | none => false
    | some position => k ≤ position.index

/-- The operation goes on from here, unless the environment abandons it here. -/
def goOn (s : State) : Run :=
  if abandonDue s then .abandoned s else .going s

/-! ## Capability calls -/

/-- The environment's answer to the next call: the script's, else a free value (R165; log 21). -/
def takeAnswer (s : State) : Answer × State :=
  match s.answers with
  | a :: rest => (a, { s with answers := rest })
  | [] => (Config.answer s.draws, { s with draws := s.draws + 1 })

/-- A capability call that can fail: it enters the trace, and the environment answers. `effect n` is what the outside
world undergoes when `n` of the call's `units` take place: all of them if the call returns `ok`, as many as the answer
says if it does not (R161, R162, R246). -/
def capabilityCall (ev : Event) (kind : ErrKind) (units : Nat) (effect : Nat → State → State) (s : State) : Run :=
  match takeAnswer (record ev s) with
  | (.ok, t) => goOn (advance (effect units t))
  | (.fail e done, t) => .raised kind e (effect (min done units) t)
  | (.never done, t) => .waiting (effect (min done units) t)

/-- What a write of command/data-select does to the pin: nothing, or the level. -/
def driveDc (level : Level) (n : Nat) (s : State) : State :=
  if n = 0 then s else { s with dcPin := level }

/-- `DcSet(level)` (R162). -/
def dcSet (level : Level) (s : State) : Run :=
  capabilityCall (.dc level) .dcPin 1 (driveDc level) s

/-- What a write of the reset line does: nothing, or the level; and when the line becomes active nothing is known of the
device any more (R64, N7; log 30). -/
def driveRst (level : Level) (n : Nat) (s : State) : State :=
  if n = 0 then s
  else if level = s.cfg.rstActive then loseDevice { s with rstPin := level }
  else { s with rstPin := level }

/-- `RstSet(level)` (R163). -/
def rstSet (level : Level) (s : State) : Run :=
  capabilityCall (.rst level) .rstPin 1 (driveRst level) s

/-- The first `n` bytes of a run reach the device's end of the bus, in order, under the level command/data-select has
(R65, R72, R98). -/
def deliver (frame : Frame) (run : List Byte) (n : Nat) (s : State) : State :=
  { s with wire := s.wire ++ (run.take n).map (fun b => { dc := s.dcPin, byte := b, frame := frame }) }

/-- `BusWrite(run)` (R161). -/
def busWrite (frame : Frame) (run : List Byte) (s : State) : Run :=
  capabilityCall (.bus run) .bus run.length (deliver frame run) s

/-- `Delay(n)` (R164): it enters the trace, has no duration, and cannot fail, so that it has returned whatever the answer,
unless the answer is that it never does (R292; log 29). -/
def delay (us : BitVec 32) (s : State) : Run :=
  match takeAnswer (record (.dly us) s) with
  | (.ok, t) => goOn (advance t)
  | (.fail _ _, t) => goOn (advance t)
  | (.never _, t) => .waiting t

/-! ## Frames -/

/-- `CmdFrame(b)`: command/data-select low, then the one byte (R96, R166; D14, log 14). -/
def cmdFrame (frame : Frame) (b : Byte) (s : State) : Run :=
  (dcSet .low s).andThen (busWrite frame [b])

/-- `DataFrame(run)`: command/data-select high, then the whole run in one write (R97, R167; D14, D15,
log 14). -/
def dataFrame (run : List Byte) (s : State) : Run :=
  (dcSet .high s).andThen (busWrite .data run)

/-- `SetFunc(v)`: `FUNC <- v`, then the Function Set frame (R188, D12, D13; log 13). -/
def sendFunc (v : Byte) (s : State) : Run :=
  cmdFrame .functionSet v (setFunc v s)

/-! ## Beginning and ending an operation -/

/-- The block accepts an operation: the sequencer stands at its call 0 (R28). -/
def accept (i : Instr) (s : State) : State := { s with seq := some { op := i, index := 0 } }

/-- The sequencer holds nothing and the plan to abandon is spent: the block is idle (R28). -/
def idle (s : State) : State := { s with seq := none, abandonAt := none }

/-- What the ghosts become when an operation responds `OK`: `PST` by the operation's row of R201, and the contrast it has
programmed (R202). -/
structure Ghosts where
  pst      : Pst
  contrast : Option Contrast
deriving DecidableEq, Repr

/-- The ghosts of a state. -/
def ghosts (s : State) : Ghosts := { pst := s.pst, contrast := s.contrast }

/-- Every call returned `ok`: the ghosts move, the response is `OK` (R10, R27, R201). -/
def complete (onOk : Ghosts → Ghosts) (s : State) : State :=
  respond .ok (idle { s with pst := (onOk (ghosts s)).pst, contrast := (onOk (ghosts s)).contrast })

/-- THE ABORT RULE (R244): the response is the tagged error; nothing is rolled back; `PST` is unknown (R201); control
returns to the host. -/
def abort (k : ErrKind) (e : ErrVal) (s : State) : State :=
  respond (.error k e) (idle { s with pst := .unknown })

/-- The operation is abandoned: no response, `PST` unknown, nothing is known of the device any more (R201, R249, U1). -/
def abandon (s : State) : State :=
  loseDevice { idle { s with pst := .unknown } with wire := [] }

/-- How a Controller operation ends. -/
def conclude (onOk : Ghosts → Ghosts) (r : Run) : State :=
  match r with
  | .going s => complete onOk s
  | .raised k e s => abort k e s
  | .abandoned s => abandon s
  | .waiting s => s

/-- The Controller operation `i`: accepted, carried out, concluded. -/
def operation (i : Instr) (onOk : Ghosts → Ghosts) (steps : State → Run) (s : State) :
    Host.Outcome State Fault Refusal :=
  .next (conclude onOk ((goOn (accept i s)).andThen steps))

/-! ## Block reset (R36, R180, R270) -/

/-- `lcd.new`: `FUNC <- FUNC_RESET`, no capability call (R180). -/
def constructController (s : State) : State := setFunc s.cfg.funcReset s

/-- Nothing is known any more of what stands outside the block: the levels of the pins and the device, with whatever bytes
were on the way to it (R36; log 2, log 3, log 39). -/
def loseOutside (s : State) : State :=
  loseDevice { s with dcPin := Config.dcAtReset s.draws, rstPin := Config.rstAtReset s.draws, wire := [] }

/-- The records of a run begin anew: no call made, no response given (R27, R180). -/
def clearRecords (s : State) : State := { s with responses := [], trace := [] }

/-- Block reset, the construction of both components: `FB` all zero, `FUNC = FUNC_RESET`, idle, `PST` unknown, the trace
empty; no pin is driven and the device is not told, and the pins and the device are unknown (R36, R180, R270, R271). After it
the machine stands as in `State.reset`, but for its parameters and for what the host and the environment have still to say.
What triggers it is not in the spec (N1, D22): DESIGN CHOICE, unsafe (log 39), no step performs it; an operation in progress
is dropped without a response; the host's requests still to come and the environment's answers stay. -/
def blockReset (s : State) : State :=
  clearRecords (loseOutside (idle { constructController (setFb (fbFill 0x00) s) with pst := .unknown, contrast := none }))

end Sys2Proof.Machine
end

