-- ==== Sys2Proof/Machine/Controller.lean ====
section
/-! DEFINITION. The operations of the Controller (42_controller_ops.md; `lcd.data` in 41_frame_primitives.md): first
their steps, in the order of the spec's pseudocode, then the meaning of each, with what it makes of the ghosts
(R201, R202). -/

namespace Sys2Proof.Machine

/-! ## Step lists, for a set of parameters (R8) -/

/-- The steps of `lcd.reset` (R183): inactive, active, inactive, each write followed by a hold (D10, log 11). -/
def resetSteps (p : Params) (s : State) : Run :=
  (rstSet p.rstInactive s).andThen fun s =>
  (delay Config.resetHoldUs s).andThen fun s =>
  (rstSet p.rstActive s).andThen fun s =>
  (delay Config.resetHoldUs s).andThen fun s =>
  (rstSet p.rstInactive s).andThen fun s =>
  delay Config.resetHoldUs s

/-- The steps of `lcd.addressing_horizontal` (R191): one Function Set frame, whether or not the bit changes. -/
def addressingSteps (horizontal : Bool) (s : State) : Run :=
  sendFunc (withHorizontal s.func horizontal) s

/-- The steps of `lcd.contrast` (R192): into the extended set, temperature, bias, Vop, back to the basic set. -/
def contrastSteps (contrast bias temp : Byte) (s : State) : Run :=
  (sendFunc (withExtended s.func) s).andThen fun s =>
  (cmdFrame .temp temp s).andThen fun s =>
  (cmdFrame .bias bias s).andThen fun s =>
  (cmdFrame .setVop (vopByte contrast) s).andThen fun s =>
  sendFunc (withBasic s.func) s

/-- The steps of `lcd.position` (R194): column, then bank. -/
def positionSteps (p : Params) (x y : Byte) (s : State) : Run :=
  (cmdFrame .setX (columnByte p x) s).andThen fun s =>
  cmdFrame .setY (bankByte p y) s

/-- The steps of `lcd.clear` (R195): 504 zero bytes in one data frame, then the cursor to the origin. -/
def clearSteps (p : Params) (s : State) : Run :=
  (dataFrame (List.replicate Config.bufSize 0x00) s).andThen fun s =>
  positionSteps p 0 0 s

/-- The steps of `lcd.init` (R185, R186, R187); no pulse of the reset line and no delay (D11, log 12). -/
def initSteps (p : Params) (s : State) : Run :=
  (addressingSteps true (setFunc p.funcReset s)).andThen fun s =>
  (contrastSteps p.initVop p.initBias p.initTemp s).andThen fun s =>
  (cmdFrame .displayNormal Config.displayNormal s).andThen fun s =>
  clearSteps p s

/-! ## The ghosts after a response `OK` (R201, R202; log 17) -/

/-- The contrast settings of the three operands of `lcd.contrast` (R222 to R224). -/
def contrastOf (contrast bias temp : Byte) : Contrast :=
  { vop := contrast.setWidth 7, bias := bias, temp := temp }

/-- `lcd.reset`: `PST` to `Reset`, from any state. -/
def afterReset (g : Ghosts) : Ghosts := { g with pst := .reset }

/-- `lcd.init`: `PST` to `Ready` from `Reset` and from `Ready`, and it stays `Unknown`; the contrast of the parameters. -/
def afterInit (p : Params) (g : Ghosts) : Ghosts :=
  { pst := match g.pst with
      | .unknown => .unknown
      | .reset => .ready
      | .ready => .ready
    contrast := some (contrastOf p.initVop p.initBias p.initTemp) }

/-- `lcd.contrast`: `PST` unchanged; the contrast of the operands. -/
def afterContrast (contrast bias temp : Byte) (g : Ghosts) : Ghosts :=
  { g with contrast := some (contrastOf contrast bias temp) }

/-- Every other Controller operation: unchanged. -/
def ghostsKept (g : Ghosts) : Ghosts := g

/-! ## Meanings -/

/-- `lcd.reset` (R183, R184). -/
def execLcdReset (s : State) : Host.Outcome State Fault Refusal :=
  operation .lcdReset afterReset (resetSteps s.cfg) s

/-- `lcd.init` (R185 to R190). -/
def execLcdInit (s : State) : Host.Outcome State Fault Refusal :=
  operation .lcdInit (afterInit s.cfg) (initSteps s.cfg) s

/-- `lcd.addressing_horizontal` (R191). -/
def execLcdAddressingHorizontal (horizontal : Bool) (s : State) : Host.Outcome State Fault Refusal :=
  operation (.lcdAddressingHorizontal horizontal) ghostsKept (addressingSteps horizontal) s

/-- `lcd.contrast` (R192, R193). -/
def execLcdContrast (contrast bias temp : Byte) (s : State) : Host.Outcome State Fault Refusal :=
  operation (.lcdContrast contrast bias temp) (afterContrast contrast bias temp) (contrastSteps contrast bias temp) s

/-- `lcd.position` (R194). -/
def execLcdPosition (x y : Byte) (s : State) : Host.Outcome State Fault Refusal :=
  operation (.lcdPosition x y) ghostsKept (positionSteps s.cfg x y) s

/-- `lcd.clear` (R195, R196). -/
def execLcdClear (s : State) : Host.Outcome State Fault Refusal :=
  operation .lcdClear ghostsKept (clearSteps s.cfg) s

/-- `lcd.data` (R168): one data frame, of any length. -/
def execLcdData (run : List Byte) (s : State) : Host.Outcome State Fault Refusal :=
  operation (.lcdData run) ghostsKept (dataFrame run) s

/-- Selector 0xB (R95): refused, no meaning (log 18). -/
def execReserved0xB (_ : State) : Host.Outcome State Fault Refusal :=
  .refused (.reservedSelector 0xB)

/-- Selectors 0xC to 0xF (R95): refused, no meaning (log 18). -/
def execReserved0xCto0xF (low : BitVec 2) (_ : State) : Host.Outcome State Fault Refusal :=
  .refused (.reservedSelector (0x3#2 ++ low))

end Sys2Proof.Machine
end

