-- ==== Sys2Proof/Machine/Device.lean ====
section
/-! DEFINITION. What each byte on the bus does to the device (43_bus_commands.md R221 to R228; 20_memory.md R58 to R64).
The block never decodes these bytes; the device executes them, and no rule about the block rests on it (R57; log 1).
Where the spec does not say what the device does with a byte, nothing is known of the device afterwards. -/

namespace Sys2Proof.Machine

/-- A change of the device alone. -/
def setDevice (d : Device) (s : State) : State := { s with dev := d }

/-- A byte reaches the device: while its reset line is held active the spec does not say what becomes of it, and nothing
is known of the device afterwards (log 30). -/
def deviceTakes (effect : State → State) (s : State) : State :=
  if s.rstPin = s.cfg.rstActive then loseDevice s else effect s

/-- Nothing is known of the cursor any more (U3; log 24). -/
def loseCursor (s : State) : State :=
  { s with dev := { s.dev with col := Config.freeCol s.draws, bank := Config.freeBank s.draws }, draws := s.draws + 1 }

/-- The byte `1vvvvvvv`: column address in the basic set, Set-Vop in the extended set (R63, R108, R222, R225). A column of
84 or more leaves the cursor unknown (U3). -/
def columnOrVop (v : BitVec 7) (s : State) : State :=
  if s.dev.h then setDevice { s.dev with vop := v } s
  else if inRange : v.toNat < 84 then setDevice { s.dev with col := ⟨v.toNat, inRange⟩ } s
  else loseCursor s

/-- The bank-address command: a bank in the basic set, and one of 6 or more leaves the cursor unknown (R59, R226, U3;
log 24); it sets the bank only in the basic set, and the spec gives it no other effect, so in the extended set nothing
changes (R59, R63, R283). DESIGN CHOICE, unsafe (log 35). -/
def bankAddress (y : Nat) (s : State) : State :=
  if s.dev.h then s
  else if inRange : y < 6 then setDevice { s.dev with bank := ⟨y, inRange⟩ } s
  else loseCursor s

/-- The Function Set command: the three flags at once, in either instruction set (R63, R221). The spec does not say whether
a new addressing direction moves the cursor (N12): DESIGN CHOICE, unsafe, it does not (log 38). That a powered-down device
goes on taking bytes is a DESIGN CHOICE, unsafe (log 31). -/
def functionFlags (pd v h : Bool) (s : State) : State :=
  setDevice { s.dev with pd := pd, v := v, h := h } s

/-- The display-mode command `0x0C`: the normal mode, in the basic set (R103, R108, R227); in the extended set the spec
gives the byte no meaning, and nothing is known of the device afterwards (log 35). -/
def normalMode (s : State) : State :=
  if s.dev.h then loseDevice s else setDevice { s.dev with mode := .normal } s

/-- A byte the device decodes in the basic set, by its bits (R63, R99, R101 to R103, R108); nothing is known of the device
after one the spec gives no meaning there (log 35). -/
def basicCommand (b : Byte) (s : State) : State :=
  if b &&& 0xF8 = 0x20 then functionFlags (b.getLsbD 2) (b.getLsbD 1) (b.getLsbD 0) s
  else if b &&& 0x80 = 0x80 then columnOrVop (b.setWidth 7) s
  else if b &&& 0xF8 = 0x40 then bankAddress (b &&& 0x07).toNat s
  else if b = 0x0C then normalMode s
  else loseDevice s

/-- A byte the device decodes in the extended set, by its bits (R63, R108); nothing is known of the device after one the
spec gives no meaning there (log 41). -/
def extendedCommand (b : Byte) (s : State) : State :=
  if b &&& 0xF8 = 0x20 then functionFlags (b.getLsbD 2) (b.getLsbD 1) (b.getLsbD 0) s
  else if b &&& 0x80 = 0x80 then columnOrVop (b.setWidth 7) s
  else loseDevice s

/-- A byte written with command/data-select low that lacks the fixed bits of its frame, so that it is no row of the table.
A bank frame's `01yyyyyy`, which `lcd.position` sends where `Y_MASK` is wider than its default (R8, D6), is a bank address
all the same, of a bank that does not exist (U3); any other byte is what its bits say in the device's instruction set.
DESIGN CHOICE, unsafe (log 41). -/
def unlistedCommand (w : WireByte) (s : State) : State :=
  if w.frame = .setY ∧ w.byte &&& 0xC0 = 0x40 then bankAddress (w.byte &&& 0x3F).toNat s
  else if s.dev.h then extendedCommand w.byte s
  else basicCommand w.byte s

/-- The byte of a temperature or a bias frame: in the extended set it is recorded as that setting, whatever its value
(R104, R223, R224, U4; log 19); in the basic set, where neither can be set, it is what its bits say (R63). -/
def analogueSetting (b : Byte) (store : Device → Device) (s : State) : State :=
  if s.dev.h then setDevice (store s.dev) s else basicCommand b s

/-- The cell the cursor stands at (R51, R60). -/
def cursorAddress (col : Fin 84) (bank : Fin 6) : Nat :=
  bank.val * 84 + col.val

/-- The cursor after a data byte in horizontal addressing: column + 1; after column 83, column 0 of the next bank; after
bank 5, bank 0 (R60). -/
def horizontalStep (col : Fin 84) (bank : Fin 6) : Fin 84 × Fin 6 :=
  if col = 83 then (0, bank + 1) else (col + 1, bank)

/-- The cursor after a data byte (R60, R61), for a device that steps so in vertical addressing. -/
def cursorStep (vert : VertStep) (v : Bool) (col : Fin 84) (bank : Fin 6) : Fin 84 × Fin 6 :=
  if v then vert.apply col bank else horizontalStep col bank

/-- A data byte: stored at the cursor, which then advances (R60, R228). -/
def storeData (d : Byte) (s : State) : State :=
  setDevice { s.dev with
    ddram := ddramWrite s.dev.ddram (cursorAddress s.dev.col s.dev.bank) d
    col := (cursorStep s.cfg.vertStep s.dev.v s.dev.col s.dev.bank).1
    bank := (cursorStep s.cfg.vertStep s.dev.v s.dev.col s.dev.bank).2 } s

/-! ## Meanings -/

/-- `FUNCTION_SET` (R63, R221). -/
def execFunctionSet (pd v h : Bool) (s : State) : Host.Outcome State Fault Refusal :=
  .next (deviceTakes (functionFlags pd v h) s)

/-- `TEMP` (R223). -/
def execTemp (t : Byte) (s : State) : Host.Outcome State Fault Refusal :=
  .next (deviceTakes (analogueSetting t (fun d => { d with temp := t })) s)

/-- `BIAS` (R224). -/
def execBias (b : Byte) (s : State) : Host.Outcome State Fault Refusal :=
  .next (deviceTakes (analogueSetting b (fun d => { d with bias := b })) s)

/-- `SET_VOP` (R222). -/
def execSetVop (v : BitVec 7) (s : State) : Host.Outcome State Fault Refusal :=
  .next (deviceTakes (columnOrVop v) s)

/-- `SET_X` (R225). -/
def execSetX (x : BitVec 7) (s : State) : Host.Outcome State Fault Refusal :=
  .next (deviceTakes (columnOrVop x) s)

/-- `SET_Y` (R226). -/
def execSetY (y : BitVec 3) (s : State) : Host.Outcome State Fault Refusal :=
  .next (deviceTakes (bankAddress y.toNat) s)

/-- `DISPLAY_NORMAL` (R227). -/
def execDisplayNormal (s : State) : Host.Outcome State Fault Refusal :=
  .next (deviceTakes normalMode s)

/-- `DATA_BYTE` (R228). -/
def execDataByte (d : Byte) (s : State) : Host.Outcome State Fault Refusal :=
  .next (deviceTakes (storeData d) s)

/-- A command byte that is no row of the table (R106; log 41). -/
def execUnlisted (w : WireByte) (s : State) : Host.Outcome State Fault Refusal :=
  .next (deviceTakes (unlistedCommand w) s)

end Sys2Proof.Machine
end

