-- ==== Sys2Proof/Machine/FrameBuffer.lean ====
section
/-! DEFINITION. The operations of the FrameBuffer (40_framebuffer_ops.md). They touch `FB` only, make no capability call
and always respond `OK` (R130). -/

namespace Sys2Proof.Machine

/-- `fb.new` (R131). -/
def execFbNew (s : State) : Host.Outcome State Fault Refusal :=
  .next (respond .ok (setFb (fbFill 0x00) s))

/-- `FB` after `fb.set_pixel(x, y, on)` (R132 to R136): a coordinate outside the surface changes nothing. -/
def drawPixel (x y : Int) (on : Bool) (m : Mem) : Mem :=
  if pixelInRange x y then
    fbWrite m (pixelIndex x.toNat y.toNat) (pixelByte (fbRead m (pixelIndex x.toNat y.toNat)) y.toNat on)
  else m

/-- `fb.set_pixel` (R132). -/
def execFbSetPixel (x y : Int) (on : Bool) (s : State) : Host.Outcome State Fault Refusal :=
  .next (respond .ok (setFb (drawPixel x y on s.fb) s))

/-- `fb.clear` (R139). -/
def execFbClear (on : Bool) (s : State) : Host.Outcome State Fault Refusal :=
  .next (respond .ok (setFb (fbFill (fillByte on)) s))

/-- `fb.bytes` (R140). -/
def execFbBytes (s : State) : Host.Outcome State Fault Refusal :=
  .next (respond (.bytes (fbAll s.fb)) s)

end Sys2Proof.Machine
end

