-- ==== Sys2Proof/Machine/Dispatch.lean ====
section
/-! DEFINITION. One arm per instruction, each one call of its meaning. -/

namespace Sys2Proof.Machine

def exec (i : Instr) (s : State) : Host.Outcome State Fault Refusal :=
  match i with
  | .fbNew => Sys2Proof.Machine.execFbNew s
  | .fbSetPixel x y on => Sys2Proof.Machine.execFbSetPixel x y on s
  | .fbClear on => Sys2Proof.Machine.execFbClear on s
  | .fbBytes => Sys2Proof.Machine.execFbBytes s
  | .lcdReset => Sys2Proof.Machine.execLcdReset s
  | .lcdInit => Sys2Proof.Machine.execLcdInit s
  | .lcdAddressingHorizontal horizontal => Sys2Proof.Machine.execLcdAddressingHorizontal horizontal s
  | .lcdContrast contrast bias temp => Sys2Proof.Machine.execLcdContrast contrast bias temp s
  | .lcdPosition x y => Sys2Proof.Machine.execLcdPosition x y s
  | .lcdClear => Sys2Proof.Machine.execLcdClear s
  | .lcdData run => Sys2Proof.Machine.execLcdData run s
  | .reserved0xB => Sys2Proof.Machine.execReserved0xB s
  | .reserved0xCto0xF low => Sys2Proof.Machine.execReserved0xCto0xF low s
  | .functionSet pd v h => Sys2Proof.Machine.execFunctionSet pd v h s
  | .temp t => Sys2Proof.Machine.execTemp t s
  | .bias b => Sys2Proof.Machine.execBias b s
  | .setVop v => Sys2Proof.Machine.execSetVop v s
  | .setX x => Sys2Proof.Machine.execSetX x s
  | .setY y => Sys2Proof.Machine.execSetY y s
  | .displayNormal => Sys2Proof.Machine.execDisplayNormal s
  | .dataByte d => Sys2Proof.Machine.execDataByte d s

end Sys2Proof.Machine
end

