-- ==== Sys2Proof/WellFormed.lean ====
section
/-! DEFINITION. When an instruction can be written as a request or as a byte. The types of the operands bound every
operand but the pixel coordinates, which must fit the signed COORD_W-bit fields of the request port (10_state.md R26).
And when a set of parameters is one the spec speaks of (00_scope.md R8). -/

namespace Sys2Proof

/-- The parameters are within what the spec says of them (log 40): `COORD_W` at least 8 (R8); masks at least as wide as
the operands in range, which leave bit 7 of the bank-address byte clear (D6); `FUNC_RESET` a Function Set byte of the basic set with power-down clear
(R23, R25); three different error codes, none that of `OK` (R240); a numbering that leaves no operation out (D1). -/
def Params.legal (p : Params) : Bool :=
  8 ≤ p.coordW && p.xMask &&& 0x7F == 0x7F && p.yMask &&& 0x87 == 0x07 && p.funcReset &&& 0xFD == 0x20 &&
    p.errBus != 0 && p.errDc != 0 && p.errRst != 0 && p.errBus != p.errDc && p.errBus != p.errRst && p.errDc != p.errRst &&
    p.numbering.length == 16 && (List.range 16).all (fun k => p.numbering.contains (BitVec.ofNat 4 k))

/-- A coordinate fits a signed field of `w` bits (R26, R92). -/
def coordFits (w : Nat) (z : Int) : Bool :=
  -(2 ^ (w - 1) : Int) ≤ z && z < (2 ^ (w - 1) : Int)

/-- The instruction has an encoding: its coordinates fit. Every other operand value is legal (R291). -/
def Instr.wellFormed (p : Params) (i : Instr) : Bool :=
  match i with
  | .fbSetPixel x y _ => coordFits p.coordW x && coordFits p.coordW y
  | .fbNew => true
  | .fbClear _ => true
  | .fbBytes => true
  | .lcdReset => true
  | .lcdInit => true
  | .lcdAddressingHorizontal _ => true
  | .lcdContrast _ _ _ => true
  | .lcdPosition _ _ => true
  | .lcdClear => true
  | .lcdData _ => true
  | .reserved0xB => true
  | .reserved0xCto0xF _ => true
  | .functionSet _ _ _ => true
  | .temp _ => true
  | .bias _ => true
  | .setVop _ => true
  | .setX _ => true
  | .setY _ => true
  | .displayNormal => true
  | .dataByte _ => true

end Sys2Proof
end

