-- ==== Sys2Proof/Decode.lean ====
section
/-! DEFINITION. The decoder, total on every request and every bus byte, rejecting by name; the encoder, written from the
same tables (30_encoding.md R91, R92, R99 to R104); the rows of spec/opcode_table.json as data; and the instruction of
one word of that table. -/

namespace Sys2Proof

/-! ## Requests (R91, R92) -/

/-- The number a signed field of `w` bits carries (R92). -/
def signedField (w : Nat) (z : Int) : Int :=
  (BitVec.ofInt w z).toInt

/-- The low byte of a field of `w` bits: the operand of formats F2 and F4 (R92). -/
def lowByteOfField (w : Nat) (z : Int) : Byte :=
  (BitVec.ofInt w z).setWidth 8

/-- The instruction a request asks for. The selector alone decides which (R93); each format reads its own fields and
ignores all others (R92). -/
def decodeRequest (p : Params) (r : Request) : Instr :=
  if p.row r.op = 0x0#4 then .fbNew
  else if p.row r.op = 0x1#4 then .fbSetPixel (signedField p.coordW r.a) (signedField p.coordW r.b) r.f
  else if p.row r.op = 0x2#4 then .fbClear r.f
  else if p.row r.op = 0x3#4 then .fbBytes
  else if p.row r.op = 0x4#4 then .lcdReset
  else if p.row r.op = 0x5#4 then .lcdInit
  else if p.row r.op = 0x6#4 then .lcdAddressingHorizontal r.f
  else if p.row r.op = 0x7#4 then .lcdContrast (lowByteOfField p.coordW r.a) (lowByteOfField p.coordW r.b) r.c
  else if p.row r.op = 0x8#4 then .lcdPosition (lowByteOfField p.coordW r.a) (lowByteOfField p.coordW r.b)
  else if p.row r.op = 0x9#4 then .lcdClear
  else if p.row r.op = 0xA#4 then .lcdData r.run
  else if p.row r.op = 0xB#4 then .reserved0xB
  else .reserved0xCto0xF ((p.row r.op).extractLsb' 0 2)

/-- A request with selector `op` and every operand field zero. -/
def Request.plain (op : BitVec 4) : Request :=
  { op := op, a := 0, b := 0, c := 0, f := false, run := [] }

/-! ## Bytes on the bus (R96 to R104) -/

/-- Why a bus byte is no instruction of the table: its frame's pattern of bits does not hold of it. The Controller sends
such a byte only where `Y_MASK` or `FUNC_RESET` is not the default; what the device does with it is log 41. -/
inductive Reject where
  /-- a byte of a command frame that lacks the fixed bits of that command -/
  | notThatCommand (frame : Frame)
  /-- a byte written with command/data-select low that belongs to a data frame -/
  | dataWrittenAsCommand
deriving DecidableEq, Repr

/-- The instruction a bus byte is to the device. A byte written with command/data-select high is a data byte whatever
its value (R98, R228); one written with it low is a command byte, read by the pattern of its frame. -/
def decodeWire (w : WireByte) : Except Reject Instr :=
  match w.dc with
  | .high => .ok (.dataByte w.byte)
  | .low =>
    match w.frame with
    | .functionSet =>
      if w.byte &&& 0xF8 = 0x20 then .ok (.functionSet (w.byte.getLsbD 2) (w.byte.getLsbD 1) (w.byte.getLsbD 0))
      else .error (.notThatCommand .functionSet)
    | .temp => .ok (.temp w.byte)
    | .bias => .ok (.bias w.byte)
    | .setVop =>
      if w.byte &&& 0x80 = 0x80 then .ok (.setVop (w.byte.extractLsb' 0 7)) else .error (.notThatCommand .setVop)
    | .setX =>
      if w.byte &&& 0x80 = 0x80 then .ok (.setX (w.byte.extractLsb' 0 7)) else .error (.notThatCommand .setX)
    | .setY =>
      if w.byte &&& 0xF8 = 0x40 then .ok (.setY (w.byte.extractLsb' 0 3)) else .error (.notThatCommand .setY)
    | .displayNormal =>
      if w.byte = 0x0C then .ok .displayNormal else .error (.notThatCommand .displayNormal)
    | .data => .error .dataWrittenAsCommand

/-- The decoder. -/
def decode (p : Params) (c : Coded) : Except Reject Instr :=
  match c with
  | .request r => .ok (decodeRequest p r)
  | .wire w => decodeWire w

/-! ## The encoder -/

/-- The Function Set byte of three flags: `0x20 | PD<<2 | V<<1 | H` (R99). -/
def functionSetByte (pd v h : Bool) : Byte :=
  Config.functionSet ||| (if pd then Config.powerDown else 0) ||| (if v then Config.addressingVert else 0) |||
    (if h then Config.extendedInstr else 0)

/-- An instruction as a request or as a bus byte. Fields an operation does not use are zero, and a
request carries the number its operation has on the port. -/
def encode (p : Params) (i : Instr) : Coded :=
  match i with
  | .fbNew => .request (Request.plain (p.portNumber 0x0))
  | .fbSetPixel x y on => .request { Request.plain (p.portNumber 0x1) with a := x, b := y, f := on }
  | .fbClear on => .request { Request.plain (p.portNumber 0x2) with f := on }
  | .fbBytes => .request (Request.plain (p.portNumber 0x3))
  | .lcdReset => .request (Request.plain (p.portNumber 0x4))
  | .lcdInit => .request (Request.plain (p.portNumber 0x5))
  | .lcdAddressingHorizontal h => .request { Request.plain (p.portNumber 0x6) with f := h }
  | .lcdContrast v b t => .request { Request.plain (p.portNumber 0x7) with a := v.toNat, b := b.toNat, c := t }
  | .lcdPosition x y => .request { Request.plain (p.portNumber 0x8) with a := x.toNat, b := y.toNat }
  | .lcdClear => .request (Request.plain (p.portNumber 0x9))
  | .lcdData run => .request { Request.plain (p.portNumber 0xA) with run := run }
  | .reserved0xB => .request (Request.plain (p.portNumber 0xB))
  | .reserved0xCto0xF low => .request (Request.plain (p.portNumber (0x3#2 ++ low)))
  | .functionSet pd v h => .wire { dc := .low, byte := functionSetByte pd v h, frame := .functionSet }
  | .temp t => .wire { dc := .low, byte := t, frame := .temp }
  | .bias b => .wire { dc := .low, byte := b, frame := .bias }
  | .setVop v => .wire { dc := .low, byte := 1#1 ++ v, frame := .setVop }
  | .setX x => .wire { dc := .low, byte := 1#1 ++ x, frame := .setX }
  | .setY y => .wire { dc := .low, byte := 0x08#5 ++ y, frame := .setY }
  | .displayNormal => .wire { dc := .low, byte := Config.displayNormal, frame := .displayNormal }
  | .dataByte d => .wire { dc := .high, byte := d, frame := .data }

/-! ## The rows of spec/opcode_table.json -/

/-- The space a row belongs to (R112). -/
inductive Space where
  | hostOp
  | busCmd
  | busData
deriving DecidableEq, Repr

/-- One row: a word belongs to it when its bits under `mask` are those of `pattern`. -/
structure Row where
  space   : Space
  pattern : Byte
  mask    : Byte
deriving DecidableEq, Repr

/-- The row of an instruction, as spec/opcode_table.json gives it. -/
def rowOf (i : Instr) : Row :=
  match i with
  | .fbNew => ⟨.hostOp, 0x0, 0xF⟩
  | .fbSetPixel _ _ _ => ⟨.hostOp, 0x1, 0xF⟩
  | .fbClear _ => ⟨.hostOp, 0x2, 0xF⟩
  | .fbBytes => ⟨.hostOp, 0x3, 0xF⟩
  | .lcdReset => ⟨.hostOp, 0x4, 0xF⟩
  | .lcdInit => ⟨.hostOp, 0x5, 0xF⟩
  | .lcdAddressingHorizontal _ => ⟨.hostOp, 0x6, 0xF⟩
  | .lcdContrast _ _ _ => ⟨.hostOp, 0x7, 0xF⟩
  | .lcdPosition _ _ => ⟨.hostOp, 0x8, 0xF⟩
  | .lcdClear => ⟨.hostOp, 0x9, 0xF⟩
  | .lcdData _ => ⟨.hostOp, 0xA, 0xF⟩
  | .reserved0xB => ⟨.hostOp, 0xB, 0xF⟩
  | .reserved0xCto0xF _ => ⟨.hostOp, 0xC, 0xC⟩
  | .functionSet _ _ _ => ⟨.busCmd, 0x20, 0xF8⟩
  | .temp _ => ⟨.busCmd, 0x00, 0x00⟩
  | .bias _ => ⟨.busCmd, 0x00, 0x00⟩
  | .setVop _ => ⟨.busCmd, 0x80, 0x80⟩
  | .setX _ => ⟨.busCmd, 0x80, 0x80⟩
  | .setY _ => ⟨.busCmd, 0x40, 0xF8⟩
  | .displayNormal => ⟨.busCmd, 0x0C, 0xFF⟩
  | .dataByte _ => ⟨.busData, 0x00, 0x00⟩

/-- The word of a coded instruction that the table describes: the selector of a request, the byte on the bus. -/
def Coded.tableWord (c : Coded) : Byte :=
  match c with
  | .request r => r.op.setWidth 8
  | .wire w => w.byte

/-- The space a coded instruction belongs to. -/
def Coded.space (c : Coded) : Space :=
  match c with
  | .request _ => .hostOp
  | .wire w =>
    match w.dc with
    | .low => .busCmd
    | .high => .busData

/-- A coded instruction belongs to a row. -/
def Row.admits (row : Row) (c : Coded) : Bool :=
  c.space == row.space && c.tableWord &&& row.mask == row.pattern

/-! ## One word of the table (log 26)

The table's spaces share their numbers: a 4-bit selector and an 8-bit command byte are both given as one byte. A word
below 0x10 is read as a selector, but for the byte 0x0C, which is `DISPLAY_NORMAL` when eight bits are given; any other
word is read as a command byte by its fixed bits, `1xxxxxxx` as `SET_X`, and as the all-operand row `TEMP` where no
pattern of fixed bits holds. -/

/-- The command frame whose fixed bits a byte has. -/
def frameOfByte (b : Byte) : Frame :=
  if b = 0x0C then .displayNormal
  else if b &&& 0x80 = 0x80 then .setX
  else if b &&& 0xF8 = 0x40 then .setY
  else if b &&& 0xF8 = 0x20 then .functionSet
  else .temp

/-- The request or bus byte that a word of the table stands for, every bit above `nbits` zero, on a port with these
parameters. -/
def codedOfTableWord (p : Params) (nbits w : Nat) : Option Coded :=
  if 8 < nbits then none
  else if w < 16 ∧ (nbits ≤ 4 ∨ w ≠ 0x0C) then some (.request (Request.plain (p.portNumber (BitVec.ofNat 4 w))))
  else if w < 256 then some (.wire { dc := .low, byte := BitVec.ofNat 8 w, frame := frameOfByte (BitVec.ofNat 8 w) })
  else none

/-- The instruction the decoder reads from a word of the table, with the numbering of the table. -/
def decodeTableWord (nbits w : Nat) : Option Instr :=
  match codedOfTableWord Params.default nbits w with
  | none => none
  | some c =>
    match decode Params.default c with
    | .ok i => some i
    | .error _ => none

end Sys2Proof
end

