-- ==== Sys2Proof/Machine/Fetch.lean ====
section
/-! DEFINITION. Which instruction comes next (70_reset_and_hazards.md R290): a byte the device has not yet taken, else, if
the block is idle, the host's next request. -/

namespace Sys2Proof.Machine

/-- What the next step does. -/
inductive Fetched where
  /-- an instruction, and the state with the byte or the request taken -/
  | instr (i : Instr) (s : State)
  /-- a bus byte that lacks the fixed bits of its frame, and the state with it taken -/
  | unlisted (w : WireByte) (s : State)
  /-- an operation is in progress and its capability call never returns (R292) -/
  | stuck
  /-- the block is idle and the host makes no request (R271) -/
  | nothing
deriving DecidableEq, Repr

/-- The state with the next request taken by the block, and the environment's plan for it in force. -/
def takeRequest (p : Pending) (rest : List Pending) (s : State) : State :=
  { s with pending := rest, abandonAt := p.abandonAt }

/-- The state with the next bus byte taken by the device. -/
def takeByte (rest : List WireByte) (s : State) : State :=
  { s with wire := rest }

/-- The next instruction. Bytes delivered are taken, in order, before the host's next request (R72, R161). -/
def fetch (s : State) : Fetched :=
  match s.wire with
  | w :: rest =>
    match decodeWire w with
    | .ok i => .instr i (takeByte rest s)
    | .error _ => .unlisted w (takeByte rest s)
  | [] =>
    match s.seq with
    | some _ => .stuck
    | none =>
      match s.pending with
      | [] => .nothing
      | p :: rest => .instr (decodeRequest s.cfg p.request) (takeRequest p rest s)

/-- The state in which the next fetch reads a coded instruction: a bus byte stands first on the wire; a request stands
first among the host's, the wire is drained and no operation is in progress. -/
def placeNext (c : Coded) (s : State) : State :=
  match c with
  | .wire w => { s with wire := w :: s.wire }
  | .request r => { s with wire := [], seq := none, pending := { request := r, abandonAt := none } :: s.pending }

end Sys2Proof.Machine
end

