-- ==== Sys2Proof/Machine/Step.lean ====
section
/-! DEFINITION. One step: the next instruction is fetched and executed; an idle block with no request waits. -/

namespace Sys2Proof.Machine

/-- One step of the machine (R290): the device takes one byte, or the block carries out one request. With no byte and no
request an idle block waits (R271, R292). -/
def step (s : State) : Host.Outcome State Fault Refusal :=
  match fetch s with
  | .instr i t => exec i t
  | .unlisted w t => execUnlisted w t
  | .stuck => .fault .capabilityCallNeverReturned
  | .nothing => .next s

/-- The state in which the next step fetches the word `w` of the opcode table (log 26, log 27). -/
def State.withFetchWord (s : State) (nbits w : Nat) : State :=
  match codedOfTableWord s.cfg nbits w with
  | none => s
  | some c => placeNext c s

end Sys2Proof.Machine
end

