-- ==== Sys2Proof/Machine/Pseudo.lean ====
section
/-! DEFINITION. The pseudo-operations, by expansion (30_encoding.md R111): the host issues the operations they stand for,
one after the other (40_framebuffer_ops.md R141, R142; 41_frame_primitives.md R169, R170). They have no selector and no
row of the opcode table. -/

namespace Sys2Proof.Machine

/-- The host goes on with `f` from the next state. -/
def afterwards (o : Host.Outcome State Fault Refusal) (f : State → Host.Outcome State Fault Refusal) :
    Host.Outcome State Fault Refusal :=
  match o with
  | .next s => f s
  | .fault r => .fault r
  | .refused r => .refused r

/-- `lcd.flush()` is `lcd.data(fb.bytes())`: the host hands the payload of `fb.bytes` to `lcd.data` (R169). -/
def flush (s : State) : Host.Outcome State Fault Refusal :=
  afterwards (execFbBytes s) fun t =>
    match t.responses.getLast? with
    | some (.bytes payload) => execLcdData payload t
    | some .ok => .next t
    | some (.error _ _) => .next t
    | none => .next t

/-- `lcd.refresh()` is `lcd.position(0, 0)` then `lcd.flush()`; the host stops at the first operation that does not
respond `OK` (R170). -/
def refresh (s : State) : Host.Outcome State Fault Refusal :=
  afterwards (execLcdPosition 0 0 s) fun t =>
    if t.seq = none ∧ t.responses = s.responses ++ [.ok] then flush t else .next t

/-- `fb.draw(list)`: `fb.set_pixel` for each triple, in list order (R141). -/
def draw (points : List (Int × Int × Bool)) (s : State) : Host.Outcome State Fault Refusal :=
  match points with
  | [] => .next s
  | (x, y, on) :: rest => afterwards (execFbSetPixel x y on s) (draw rest)

/-- The requests `fb.draw(list)` stands for, on a port with these parameters. -/
def drawRequests (p : Params) (points : List (Int × Int × Bool)) : List Request :=
  points.map fun (x, y, on) => { Request.plain (p.portNumber 0x1) with a := x, b := y, f := on }

/-- A rectangle of logical pixels. -/
structure Rectangle where
  left   : Int
  top    : Int
  width  : Nat
  height : Nat
deriving DecidableEq, Repr

/-- `fb.bounding_box()`: the constant rectangle of the surface (R142). -/
def boundingBox : Rectangle :=
  { left := 0, top := 0, width := Config.width, height := Config.height }

/-- A pixel lies inside a rectangle. -/
def Rectangle.contains (r : Rectangle) (x y : Int) : Bool :=
  r.left ≤ x && x < r.left + r.width && r.top ≤ y && y < r.top + r.height

end Sys2Proof.Machine
end

