-- ==== Sys2Proof/Machine/StepLists.lean ====
section
/-! DEFINITION. The expanded step list of each Controller operation as a list (10_state.md R28; 42_controller_ops.md R187),
and what the sequencer makes of it: the calls in list order, up to and with the first that does not return `ok`
(60_exceptions.md R244, R245). Written beside the pseudocode of Controller.lean, so that the two can be held against each
other; nothing in `step` uses it. -/

namespace Sys2Proof.Machine

/-- One row of a step list: the capability call, and the value of `FUNC` once it has been made (R187). -/
structure CallRow where
  event : Event
  func  : Byte
deriving DecidableEq, Repr

/-- The two calls of a command frame (R166). -/
def cmdRows (b func : Byte) : List CallRow :=
  [⟨.dc .low, func⟩, ⟨.bus [b], func⟩]

/-- The two calls of a data frame (R167). -/
def dataRows (run : List Byte) (func : Byte) : List CallRow :=
  [⟨.dc .high, func⟩, ⟨.bus run, func⟩]

/-- The rows of `lcd.position` (R194). -/
def positionRows (p : Params) (x y func : Byte) : List CallRow :=
  cmdRows (columnByte p x) func ++ cmdRows (bankByte p y) func

/-- The rows of `lcd.clear` (R195). -/
def clearRows (p : Params) (func : Byte) : List CallRow :=
  dataRows (List.replicate Config.bufSize 0x00) func ++ positionRows p 0 0 func

/-- The rows of `lcd.addressing_horizontal` (R191). -/
def addressingRows (horizontal : Bool) (func : Byte) : List CallRow :=
  cmdRows (withHorizontal func horizontal) (withHorizontal func horizontal)

/-- The rows of `lcd.contrast` (R192). -/
def contrastRows (contrast bias temp func : Byte) : List CallRow :=
  cmdRows (withExtended func) (withExtended func) ++ cmdRows temp (withExtended func) ++
    cmdRows bias (withExtended func) ++ cmdRows (vopByte contrast) (withExtended func) ++
    cmdRows (withBasic (withExtended func)) (withBasic (withExtended func))

/-- The rows of `lcd.reset` (R183). -/
def resetRows (p : Params) (func : Byte) : List CallRow :=
  [⟨.rst p.rstInactive, func⟩, ⟨.dly Config.resetHoldUs, func⟩, ⟨.rst p.rstActive, func⟩, ⟨.dly Config.resetHoldUs, func⟩,
   ⟨.rst p.rstInactive, func⟩, ⟨.dly Config.resetHoldUs, func⟩]

/-- The rows of `lcd.init` (R187): 20 calls. -/
def initRows (p : Params) : List CallRow :=
  addressingRows true p.funcReset ++ contrastRows p.initVop p.initBias p.initTemp (withHorizontal p.funcReset true) ++
    cmdRows Config.displayNormal (withBasic (withExtended (withHorizontal p.funcReset true))) ++
    clearRows p (withBasic (withExtended (withHorizontal p.funcReset true)))

/-- The expanded step list of an operation started with `FUNC = func`; none, the instruction is no Controller
operation. -/
def stepList (p : Params) (i : Instr) (func : Byte) : Option (List CallRow) :=
  match i with
  | .lcdReset => some (resetRows p func)
  | .lcdInit => some (initRows p)
  | .lcdAddressingHorizontal h => some (addressingRows h func)
  | .lcdContrast v b t => some (contrastRows v b t func)
  | .lcdPosition x y => some (positionRows p x y func)
  | .lcdClear => some (clearRows p func)
  | .lcdData run => some (dataRows run func)
  | .fbNew => none
  | .fbSetPixel _ _ _ => none
  | .fbClear _ => none
  | .fbBytes => none
  | .reserved0xB => none
  | .reserved0xCto0xF _ => none
  | .functionSet _ _ _ => none
  | .temp _ => none
  | .bias _ => none
  | .setVop _ => none
  | .setX _ => none
  | .setY _ => none
  | .displayNormal => none
  | .dataByte _ => none

/-- The error kind of a failing call (R240); a `Delay` cannot fail. -/
def errorOf (ev : Event) : Option ErrKind :=
  match ev with
  | .rst _ => some .rstPin
  | .dc _ => some .dcPin
  | .bus _ => some .bus
  | .dly _ => none

/-- How the calls of a list end. -/
inductive Ending where
  | ok
  | error (k : ErrKind) (e : ErrVal)
  | waiting
deriving DecidableEq, Repr

/-- What a step list comes to under a list of answers: the calls made, `FUNC` afterwards, how it ends. -/
structure Played where
  calls : List Event
  func  : Byte
  ends  : Ending
deriving DecidableEq, Repr

/-- A call that has returned, and what comes after it. -/
def before (row : CallRow) (later : Played) : Played :=
  { later with calls := row.event :: later.calls }

/-- The sequencer's rule (R28, R244): calls in order, each with the next answer, nothing after the first that fails or does
not return; a `Delay` cannot fail (R164). `func` is `FUNC` before the first call. -/
def play (rows : List CallRow) (answers : List Answer) (func : Byte) : Played :=
  match rows, answers with
  | [], _ => ⟨[], func, .ok⟩
  | row :: _, [] => ⟨[row.event], row.func, .waiting⟩
  | row :: rest, .ok :: more => before row (play rest more row.func)
  | row :: rest, .fail e _ :: more =>
    match errorOf row.event with
    | some k => ⟨[row.event], row.func, .error k e⟩
    | none => before row (play rest more row.func)
  | row :: _, .never _ :: _ => ⟨[row.event], row.func, .waiting⟩

end Sys2Proof.Machine
end

