-- ==== Sys2Proof/Safety.lean ====
section
/-! DEFINITION. The terms claims use: invariants of the machine, what a host may rely on, and the premises under which an
operation runs to its response. -/

namespace Sys2Proof.Safety

open Sys2Proof.Machine

/-! ## Premises -/

/-- The environment answers `ok` to the next `n` capability calls, and lets the operation run to its response (R165,
D17). `rest` are its answers after these. -/
def RunsThrough (n : Nat) (rest : List Answer) (s : State) : Prop :=
  s.answers = List.replicate n .ok ++ rest ∧ s.abandonAt = none

/-- The device's reset line is not held active. -/
def OutOfReset (s : State) : Prop := s.rstPin ≠ s.cfg.rstActive

/-! ## What is on the bus -/

/-- A bus byte is an instruction of the device. -/
def decodes (w : WireByte) : Bool :=
  match decodeWire w with
  | .ok _ => true
  | .error _ => false

/-- The device has taken every byte delivered to it. -/
def settled (s : State) : Host.Outcome State Fault Refusal :=
  Host.Core.run core s.wire.length s

/-- An instruction the device executes: a command byte or a data byte. -/
def isBusInstr (i : Instr) : Bool :=
  decide ((rowOf i).space ≠ .hostOp)

/-- An operation of the FrameBuffer (R130). -/
def isFrameBufferOp (i : Instr) : Bool :=
  match i with
  | .fbNew => true
  | .fbSetPixel _ _ _ => true
  | .fbClear _ => true
  | .fbBytes => true
  | .lcdReset => false
  | .lcdInit => false
  | .lcdAddressingHorizontal _ => false
  | .lcdContrast _ _ _ => false
  | .lcdPosition _ _ => false
  | .lcdClear => false
  | .lcdData _ => false
  | .reserved0xB => false
  | .reserved0xCto0xF _ => false
  | .functionSet _ _ _ => false
  | .temp _ => false
  | .bias _ => false
  | .setVop _ => false
  | .setX _ => false
  | .setY _ => false
  | .displayNormal => false
  | .dataByte _ => false

/-- An operation of the Controller: one with a step list (R28). -/
def isControllerOp (i : Instr) : Bool :=
  (stepList Params.default i 0x20).isSome

/-! ## Invariants -/

/-- `FUNC` is one of 0x20, 0x21, 0x22, 0x23 (R25). -/
def FuncLegal (s : State) : Prop :=
  s.func = 0x20 ∨ s.func = 0x21 ∨ s.func = 0x22 ∨ s.func = 0x23

/-- Both memories are in their canonical form. -/
def MemoryOk (s : State) : Prop :=
  Mem.wf s.fb ∧ Mem.full s.dev.ddram

/-- Every byte on the wire is an instruction of the device. -/
def WireOk (s : State) : Prop :=
  ∀ w ∈ s.wire, decodes w = true

/-- Every bus write of a trace follows at once the drive of command/data-select of its frame, and with it low the write
is of exactly one byte (R96 to R98). `prev` is the event before the trace. -/
def framedAfter (prev : Option Event) (trace : List Event) : Bool :=
  match trace with
  | [] => true
  | .bus run :: rest =>
    (match prev with
     | some (.dc .low) => run.length == 1
     | some (.dc .high) => true
     | some (.rst _) => false
     | some (.bus _) => false
     | some (.dly _) => false
     | none => false) && framedAfter (some (.bus run)) rest
  | ev :: rest => framedAfter (some ev) rest

/-- The trace of the machine is made of frames, reset writes and delays (R98). -/
def Framed (s : State) : Prop :=
  framedAfter none s.trace = true

/-! ## Pixels -/

/-- Reading the bit of a logical pixel from `FB` by the known transform (R138). -/
def pixelOn (m : Mem) (x y : Nat) : Bool :=
  decide (fbRead m (503 - (y / 8 * 84 + x)) &&& (0x80#8 >>> (y % 8)) ≠ 0)

/-! ## Duties of the host and promises to it -/

/-- What sending `FB` requires (R280): the device settled and out of reset, in the basic instruction set, horizontal
addressing, the cursor at the origin. -/
def MirrorReady (s : State) : Prop :=
  s.wire = [] ∧ OutOfReset s ∧ s.dev.h = false ∧ s.dev.v = false ∧ s.dev.col = 0 ∧ s.dev.bank = 0

/-- The stepping in vertical addressing is the default one, a single cycle through all cells (R61, R62; log 20), if the
device is in vertical addressing at all. -/
def StepsThroughAllCells (s : State) : Prop :=
  s.dev.v = true → s.cfg.vertStep = .bankThenColumn

/-- The device holds these contrast settings. -/
def HasContrast (d : Device) (c : Contrast) : Prop :=
  d.vop = c.vop ∧ d.bias = c.bias ∧ d.temp = c.temp

/-- The device is as `FUNC` says: basic instruction set, the addressing direction of `FUNC.V`, not powered down, normal
display mode (R202). -/
def DeviceAsFunc (func : Byte) (d : Device) : Prop :=
  d.h = false ∧ d.v = flagV func ∧ d.pd = false ∧ d.mode = .normal

/-- What `Ready` promises (R202), once the device has taken every byte delivered: while `PST = Ready` and no operation is in
progress, `FUNC` is 0x20 or 0x22, and the device is as `FUNC` says, with the contrast of the last successful `lcd.contrast`
or `lcd.init`. -/
def ReadyPromise (s : State) : Prop :=
  s.pst = .ready → s.seq = none →
    (s.func = 0x20 ∨ s.func = 0x22) ∧
      ∃ t c, settled s = .next t ∧ t.wire = [] ∧ OutOfReset t ∧ DeviceAsFunc s.func t.dev ∧
        s.contrast = some c ∧ HasContrast t.dev c

/-- What a run must keep for `ReadyPromise` to be kept: the promise itself; out of `Unknown` the reset line is not active;
`FUNC` and the parameters are legal. -/
def ReadyInv (s : State) : Prop :=
  ReadyPromise s ∧ (s.pst ≠ .unknown → s.seq = none → OutOfReset s) ∧ FuncLegal s ∧ s.cfg.legal = true

end Sys2Proof.Safety
end

