-- ==== Sys2Proof/Certificates/Slice0/Obligations.lean ====
section
/-! DEFINITION. The statements about the model, each from rules of spec/. What rests on a decision of the spec, or on a
choice of the model, says so. -/

open Sys2Proof Sys2Proof.Machine Sys2Proof.Safety

/-! ## Encodings -/

/-- R91, R92, R96 to R104: decoding the encoding of a well-formed instruction gives it back, with every operand, on a port
with any legal parameters. The selector numbers and the field widths are the spec's choice (D1, D5, D6; log 6, log 18). -/
def Obligations.DecodeOfEncode : Prop :=
  ∀ (p : Params) (i : Instr), p.legal = true → i.wellFormed p = true → decode p (encode p i) = .ok i

/-- R91, R92: each selector asks for its operation, with the operands in the fields its format names, whatever the other
fields hold; of a numeric field of format F2 or F4 the low byte. A field carries the low `COORD_W` bits of what the host
puts on it. The numbers, R91's by default, and the fields are the spec's choice (D1, D5, D6; log 6, log 18). -/
def Obligations.RequestFieldsPerFormat : Prop :=
  (∀ op : BitVec 4, Params.default.row op = op) ∧
  ∀ (p : Params) (r : Request),
    let a := BitVec.ofInt p.coordW r.a
    let b := BitVec.ofInt p.coordW r.b
    (p.row r.op = 0x0 → decodeRequest p r = .fbNew) ∧
    (p.row r.op = 0x1 → decodeRequest p r = .fbSetPixel a.toInt b.toInt r.f) ∧
    (p.row r.op = 0x2 → decodeRequest p r = .fbClear r.f) ∧
    (p.row r.op = 0x3 → decodeRequest p r = .fbBytes) ∧
    (p.row r.op = 0x4 → decodeRequest p r = .lcdReset) ∧
    (p.row r.op = 0x5 → decodeRequest p r = .lcdInit) ∧
    (p.row r.op = 0x6 → decodeRequest p r = .lcdAddressingHorizontal r.f) ∧
    (p.row r.op = 0x7 → decodeRequest p r = .lcdContrast (a.setWidth 8) (b.setWidth 8) r.c) ∧
    (p.row r.op = 0x8 → decodeRequest p r = .lcdPosition (a.setWidth 8) (b.setWidth 8)) ∧
    (p.row r.op = 0x9 → decodeRequest p r = .lcdClear) ∧
    (p.row r.op = 0xA → decodeRequest p r = .lcdData r.run) ∧
    (p.row r.op = 0xB → decodeRequest p r = .reserved0xB) ∧
    (0xC ≤ (p.row r.op).toNat → decodeRequest p r = .reserved0xCto0xF ((p.row r.op).setWidth 2))

/-- R91, R112: no word of the request port belongs to the rows of two different operations: the instructions whose rows
admit one word are the same constructor. -/
def Obligations.HostOpRowsDisjoint : Prop :=
  ∀ i j : Instr, (rowOf i).space = .hostOp → (rowOf j).space = .hostOp →
    ∀ w : Byte, w &&& (rowOf i).mask = (rowOf i).pattern → w &&& (rowOf j).mask = (rowOf j).pattern →
      i.ctorIdx = j.ctorIdx

/-- R91, R99 to R103: words written out from the tables decode to what they stand for. The requests rest on the spec's
selector numbers and field widths (D1, log 18; D5, log 6; D6, log 7), by default those of R91 and 32 bits; the bus bytes
on the frame each is tagged with (log 25). -/
def Obligations.WordsOfTheTables : Prop :=
  decodeRequest Params.default { op := 0x1, a := 10, b := 20, c := 0, f := true, run := [] } = .fbSetPixel 10 20 true ∧
  decodeRequest Params.default { op := 0x1, a := 0xFFFFFFFF, b := 24, c := 0, f := false, run := [] } =
    .fbSetPixel (-1) 24 false ∧
  decodeRequest Params.default { op := 0x7, a := 0xFF, b := 0x13, c := 0x04, f := false, run := [] } =
    .lcdContrast 0xFF 0x13 0x04 ∧
  decodeRequest Params.default { op := 0x8, a := 0x153, b := 0x205, c := 0, f := false, run := [] } = .lcdPosition 83 5 ∧
  decodeWire { dc := .low, byte := 0x22, frame := .functionSet } = .ok (.functionSet false true false) ∧
  decodeWire { dc := .low, byte := 0xBF, frame := .setVop } = .ok (.setVop 0x3F) ∧
  decodeWire { dc := .low, byte := 0xD3, frame := .setX } = .ok (.setX 83) ∧
  decodeWire { dc := .low, byte := 0x45, frame := .setY } = .ok (.setY 5) ∧
  decodeWire { dc := .low, byte := 0x0C, frame := .displayNormal } = .ok .displayNormal ∧
  decodeWire { dc := .high, byte := 0x0C, frame := .data } = .ok (.dataByte 0x0C)

/-! ## The machine's step -/

/-- A step runs the decoded instruction (R72, R290): the device's next byte if one is delivered; else, if the block is
idle, the host's next request. The order, device before host, is the model's (log 1, log 28); so are the plan of the
environment to abandon the operation, put in force with the request (log 16), the frame that tells a byte's row (log 25), and
what the device does with a byte that has not its frame's fixed bits (log 41). -/
def Obligations.StepRunsDecodedInstruction : Prop :=
  (∀ (s : State) w rest i, s.wire = w :: rest → decodeWire w = .ok i → step s = exec i { s with wire := rest }) ∧
  (∀ (s : State) p rest, s.wire = [] → s.seq = none → s.pending = p :: rest →
    step s = exec (decodeRequest s.cfg p.request) { s with pending := rest, abandonAt := p.abandonAt }) ∧
  (∀ (s : State) w rest e, s.wire = w :: rest → decodeWire w = .error e →
    step s = execUnlisted w { s with wire := rest })

/-- R271, R292: an idle block with no request and nothing delivered waits, unchanged. -/
def Obligations.IdleBlockWaits : Prop :=
  ∀ s : State, s.wire = [] → s.seq = none → s.pending = [] → step s = .next s

/-- R28, R292 (D25, log 23): whichever call of a Controller operation never returns, the `n`-th of its step list counted
from 0, a `Delay` too, the operation stays in progress at that call, gives no response, and makes no call after it; and in
every state with an operation in progress, once the device has taken its bytes, a step is the named fault. -/
def Obligations.NeverReturningCallHasNoEnd : Prop :=
  (∀ (s : State) (i : Instr) rows n d rest, stepList s.cfg i s.func = some rows → s.abandonAt = none → n < rows.length →
    s.answers = List.replicate n .ok ++ .never d :: rest →
    ∃ t, exec i s = .next t ∧ t.seq = some { op := i, index := n } ∧ t.responses = s.responses ∧ t.pst = s.pst ∧
      t.trace = s.trace ++ (rows.take (n + 1)).map CallRow.event ∧ t.fb = s.fb) ∧
  (∀ (s : State) position, s.wire = [] → s.seq = some position → step s = .fault .capabilityCallNeverReturned)

/-- R291, R95: a step stops only at a call that never returned or at a reserved selector. That a call without return is a
named fault is the model's form of it (D25, log 23); that a reserved request, which the spec gives no meaning, ends the run
is a choice too (D1, U9, log 18). -/
def Obligations.StepStopsOnlyThere : Prop :=
  ∀ s : State,
    (∃ t, step s = .next t) ∨
    (s.wire = [] ∧ s.seq ≠ none ∧ step s = .fault .capabilityCallNeverReturned) ∨
    (s.wire = [] ∧ s.seq = none ∧ ∃ p rest, s.pending = p :: rest ∧ 0xB ≤ (s.cfg.row p.request.op).toNat ∧
      step s = .refused (.reservedSelector (s.cfg.row p.request.op)))

/-- R95: a request with a reserved selector is refused, whatever its fields and the state. That the refusal ends the run
is the spec's "no meaning" (U9). -/
def Obligations.ReservedSelectorsRefused : Prop :=
  ∀ s : State, exec .reserved0xB s = .refused (.reservedSelector 0xB) ∧
    ∀ low : BitVec 2, exec (.reserved0xCto0xF low) s = .refused (.reservedSelector (0x3#2 ++ low))

/-! ## Reset -/

/-- R8, R36: what block reset leaves: the defaults of the parameters; `FB`, `FUNC` and the block idle as the spec says; the
DDRAM with a free byte in every cell, and the rest of the device free (log 3, log 5). -/
def Obligations.ResetState : Prop :=
  State.reset.cfg = {
    coordW := 32, xMask := 0x7F, yMask := 0x07, funcReset := 0x20, initVop := 0x3F, initBias := 0x14, initTemp := 0x06,
    rstActive := .low, errBus := 1, errDc := 2, errRst := 3,
    numbering := [0, 1, 2, 3, 4, 5, 6, 7, 8, 9, 10, 11, 12, 13, 14, 15], vertStep := .bankThenColumn } ∧
  State.reset.cfg.legal = true ∧
  (∀ i, i < 504 → fbRead State.reset.fb i = 0x00) ∧ State.reset.func = 0x20 ∧ State.reset.seq = none ∧
    State.reset.trace = [] ∧ State.reset.responses = [] ∧ State.reset.pst = .unknown ∧
    State.reset.dev = Device.arbitrary 0 ∧ ∀ a, a < 504 → ddramRead State.reset.dev.ddram a = some (Config.freeDdram 0 a)

/-- R25, R202: the invariants hold after block reset. -/
def Obligations.InvariantsAtReset : Prop :=
  FuncLegal State.reset ∧ MemoryOk State.reset ∧ WireOk State.reset ∧ Framed State.reset ∧ ReadyInv State.reset

/-- R36, R180, R270: the three things called reset. Block reset sets `FB` and `FUNC`, leaves an empty trace, an idle block,
and pins and device unknown, a fresh draw of free values (log 2, log 3, log 5); nothing else but the parameters, the requests
and the answers still to come is kept, so that it leads to `State.reset`. What it does to an operation in progress, to
undelivered bytes and to requests is the model's choice (N1, D22, log 39), `FUNC_RESET` that of D7 (log 8), `PST` that of
D18 (log 17). `lcd.reset` changes neither `FB` nor `FUNC`, whatever the environment answers; `lcd.init`, whatever it answers,
makes no reset write and no delay (D11, log 12). -/
def Obligations.ThreeResets : Prop :=
  (∀ s : State, (∀ i, i < 504 → fbRead (blockReset s).fb i = 0x00) ∧ (blockReset s).func = s.cfg.funcReset ∧
    (blockReset s).trace = [] ∧ (blockReset s).responses = [] ∧ (blockReset s).seq = none ∧
    (blockReset s).pst = .unknown ∧ (blockReset s).dcPin = Config.dcAtReset s.draws ∧
    (blockReset s).rstPin = Config.rstAtReset s.draws ∧ (blockReset s).dev = Device.arbitrary s.draws ∧
    (blockReset s).wire = [] ∧ (blockReset s).cfg = s.cfg ∧ (blockReset s).pending = s.pending ∧
    (blockReset s).answers = s.answers) ∧
  (∀ s : State, s.cfg = Params.default → s.pending = [] → s.answers = [] → s.draws = 0 → blockReset s = State.reset) ∧
  (∀ s : State, ∃ t, exec .lcdReset s = .next t ∧ t.fb = s.fb ∧ t.func = s.func) ∧
  (∀ s : State, ∃ t calls, exec .lcdInit s = .next t ∧ t.trace = s.trace ++ calls ∧
    ∀ ev ∈ calls, (∀ l, ev ≠ .rst l) ∧ (∀ n, ev ≠ .dly n))

/-! ## The FrameBuffer -/

/-- R131: `fb.new` leaves `FB` all zero, whatever it held, as `fb.clear(false)` and block reset do; nothing else but the
response changes. -/
def Obligations.NewZeroesFrameBuffer : Prop :=
  ∃ m : Mem, (∀ i, i < 504 → fbRead m i = 0x00) ∧ State.reset.fb = m ∧
    ∀ s : State, exec .fbNew s = .next { s with fb := m, responses := s.responses ++ [.ok] } ∧
      exec (.fbClear false) s = exec .fbNew s ∧ (blockReset s).fb = m ∧
      exec .fbBytes { s with fb := m } =
        .next { s with fb := m, responses := s.responses ++ [.bytes (List.replicate 504 0x00)] }

/-- R133 to R136: a pixel of the surface sets or clears the one bit of its mask in its byte and leaves every other byte;
nothing else but the response changes. Off the surface see `BoundingBoxIsSurface`. -/
def Obligations.SetPixelDraws : Prop :=
  ∀ (s : State) (x y : Nat) (on : Bool), x < 84 → y < 48 →
    let u := y / 8 * 84 + x
    let i := 503 - u
    let mask := 0x80#8 >>> (y % 8)
    y / 8 ≤ 5 ∧ u ≤ 503 ∧ mask = 1#8 <<< (7 - y % 8) ∧
      ∃ t, exec (.fbSetPixel x y on) s = .next t ∧
        t = { s with fb := t.fb, responses := s.responses ++ [.ok] } ∧
        fbRead t.fb i = (if on then fbRead s.fb i ||| mask else fbRead s.fb i &&& ~~~mask) ∧
        ∀ j, j ≠ i → fbRead t.fb j = fbRead s.fb j

/-- R138, S1: after `fb.set_pixel(x, y, on)` the pixel reads `on`, every other pixel as before; a second one changes
nothing more. -/
def Obligations.PixelReadsBack : Prop :=
  ∀ (s : State) (x y : Nat) (on : Bool), x < 84 → y < 48 →
    ∃ t u, exec (.fbSetPixel x y on) s = .next t ∧ pixelOn t.fb x y = on ∧
      (∀ x' y', x' < 84 → y' < 48 → (x' ≠ x ∨ y' ≠ y) → pixelOn t.fb x' y' = pixelOn s.fb x' y') ∧
      exec (.fbSetPixel x y on) t = .next u ∧ ∀ i, fbRead u.fb i = fbRead t.fb i

/-- R54: pixels and pairs of byte and bit correspond one to one, by R53 one way and by the inverse the other. -/
def Obligations.PixelBijection : Prop :=
  (∀ x y, x < 84 → y < 48 → ∃ i b, i < 504 ∧ b < 8 ∧ pixelIndex x y = i ∧ pixelMask y = 1#8 <<< b ∧
    x = 83 - i % 84 ∧ y = 47 - (8 * (i / 84) + b)) ∧
  (∀ i b, i < 504 → b < 8 → 83 - i % 84 < 84 ∧ 47 - (8 * (i / 84) + b) < 48 ∧
    pixelIndex (83 - i % 84) (47 - (8 * (i / 84) + b)) = i ∧ pixelMask (47 - (8 * (i / 84) + b)) = 1#8 <<< b) ∧
  (∀ m : Mem, (∀ x y, x < 84 → y < 48 → pixelOn m x y = true) → ∀ i, i < 504 → fbRead m i = 0xFF)

/-- R139: `fb.clear(on)` makes every byte the fill byte, whatever `FB` held; nothing else but the response changes. -/
def Obligations.ClearFillsFrameBuffer : Prop :=
  ∀ on : Bool, ∃ m : Mem, (∀ i, i < 504 → fbRead m i = if on then 0xFF else 0x00) ∧
    ∀ s : State, exec (.fbClear on) s = .next { s with fb := m, responses := s.responses ++ [.ok] }

/-- R140: `fb.bytes` answers the 504 bytes in index order and changes nothing. -/
def Obligations.BytesReadsFrameBuffer : Prop :=
  ∀ s : State, ∃ payload : List Byte, payload.length = 504 ∧ (∀ i, i < 504 → payload[i]? = some (fbRead s.fb i)) ∧
    exec .fbBytes s = .next { s with responses := s.responses ++ [.bytes payload] }

/-- R130: a FrameBuffer operation reads and writes `FB` alone and responds `OK`. -/
def Obligations.FrameBufferOpsTouchFrameBufferOnly : Prop :=
  ∀ i : Instr, isFrameBufferOp i = true → ∃ (after : Mem → Mem) (answer : Mem → Response), ∀ s : State,
    exec i s = .next { s with fb := after s.fb, responses := s.responses ++ [answer s.fb] } ∧
      ∀ p : Params, responseStatus p (answer s.fb) = 0

/-- R141: `fb.draw` is `fb.set_pixel` for each triple in list order: the same as the host's requests it stands for, run
one after the other (D20). -/
def Obligations.DrawIsItsRequests : Prop :=
  ∀ (s : State) (points : List (Int × Int × Bool)), s.wire = [] → s.seq = none → s.abandonAt = none →
    s.cfg.legal = true → (∀ p ∈ points, coordFits s.cfg.coordW p.1 = true ∧ coordFits s.cfg.coordW p.2.1 = true) →
    ∃ t, draw points s = .next t ∧
      Host.Core.run core points.length
        { s with pending := (drawRequests s.cfg points).map (fun r => { request := r, abandonAt := none }) ++ s.pending } = .next t

/-- R142: the bounding box is the constant rectangle, and a pixel lies in it exactly when its bounds test passes: outside
it `fb.set_pixel` leaves `FB` (R132). That the operation makes the test itself is D4 (log 6). -/
def Obligations.BoundingBoxIsSurface : Prop :=
  boundingBox = { left := 0, top := 0, width := 84, height := 48 } ∧
  ∀ x y : Int, (boundingBox.contains x y = true ↔ 0 ≤ x ∧ x < 84 ∧ 0 ≤ y ∧ y < 48) ∧
    (boundingBox.contains x y = false → ∀ (s : State) on,
      exec (.fbSetPixel x y on) s = .next { s with responses := s.responses ++ [.ok] })

/-! ## The Controller: operations that run to their response -/

/-- R183: `lcd.reset` drives the line inactive, active, inactive, each with a hold of 100, and touches neither `FB` nor
`FUNC`. Level and shape are the parameter and decision D9, D10 (log 10, log 11), `PST` is D18 (log 17); the device is
unknown afterwards (R64). -/
def Obligations.ResetPulsesLine : Prop :=
  ∀ (s : State) rest, RunsThrough 6 rest s →
    exec .lcdReset s = .next { s with
      trace := s.trace ++ [.rst s.cfg.rstInactive, .dly 100, .rst s.cfg.rstActive, .dly 100, .rst s.cfg.rstInactive,
        .dly 100],
      answers := rest, rstPin := s.cfg.rstInactive, pst := .reset, responses := s.responses ++ [.ok], seq := none,
      dev := Device.arbitrary s.draws, draws := s.draws + 1 }

/-- R183, R184: a failing write of the reset line ends `lcd.reset` there: no delay follows, and `FB` and `FUNC` are as
they were. Level and shape as D9, D10 (log 10, log 11); `PST` by R201, D18 (log 17). -/
def Obligations.ResetAborts : Prop :=
  ∀ (s : State) e d rest, s.abandonAt = none →
    (s.answers = .fail e d :: rest → ∃ t, exec .lcdReset s = .next t ∧ t.trace = s.trace ++ [.rst s.cfg.rstInactive] ∧
      t.responses = s.responses ++ [.error .rstPin e] ∧ t.fb = s.fb ∧ t.func = s.func ∧ t.pst = .unknown ∧ t.answers = rest) ∧
    (s.answers = .ok :: .ok :: .fail e d :: rest → ∃ t, exec .lcdReset s = .next t ∧
      t.trace = s.trace ++ [.rst s.cfg.rstInactive, .dly 100, .rst s.cfg.rstActive] ∧
      t.responses = s.responses ++ [.error .rstPin e] ∧ t.fb = s.fb ∧ t.func = s.func ∧ t.pst = .unknown ∧ t.answers = rest) ∧
    (s.answers = .ok :: .ok :: .ok :: .ok :: .fail e d :: rest → ∃ t, exec .lcdReset s = .next t ∧
      t.trace = s.trace ++ [.rst s.cfg.rstInactive, .dly 100, .rst s.cfg.rstActive, .dly 100, .rst s.cfg.rstInactive] ∧
      t.responses = s.responses ++ [.error .rstPin e] ∧ t.fb = s.fb ∧ t.func = s.func ∧ t.pst = .unknown ∧ t.answers = rest)

/-- R185 to R187: `lcd.init` from any `FUNC`: the ten frames in order, `FUNC` back at its default, the bytes on the wire,
nothing else. The contrast bytes are the parameters of D8 (log 9), `FUNC_RESET` that of D7 (log 8); the order is D12, D13
(log 13), the pin in every frame D14 (log 14), the ghosts R201, R202 (D18, log 17). -/
def Obligations.InitSendsItsFrames : Prop :=
  ∀ (s : State) rest, s.cfg.legal = true → RunsThrough 20 rest s →
    let vop := 0x80 ||| (s.cfg.initVop &&& 0x7F)
    exec .lcdInit s = .next { s with
      func := 0x20,
      trace := s.trace ++ [.dc .low, .bus [0x20], .dc .low, .bus [0x21], .dc .low, .bus [s.cfg.initTemp], .dc .low,
        .bus [s.cfg.initBias], .dc .low, .bus [vop], .dc .low, .bus [0x20], .dc .low, .bus [0x0C],
        .dc .high, .bus (List.replicate 504 0x00), .dc .low, .bus [0x80], .dc .low, .bus [0x40]],
      wire := s.wire ++ [⟨.low, 0x20, .functionSet⟩, ⟨.low, 0x21, .functionSet⟩, ⟨.low, s.cfg.initTemp, .temp⟩,
          ⟨.low, s.cfg.initBias, .bias⟩, ⟨.low, vop, .setVop⟩, ⟨.low, 0x20, .functionSet⟩,
          ⟨.low, 0x0C, .displayNormal⟩] ++
        List.replicate 504 ⟨.high, 0x00, .data⟩ ++ [⟨.low, 0x80, .setX⟩, ⟨.low, 0x40, .setY⟩],
      answers := rest, dcPin := .low, responses := s.responses ++ [.ok], seq := none,
      pst := (match s.pst with | .unknown => .unknown | .reset => .ready | .ready => .ready),
      contrast := some { vop := s.cfg.initVop.setWidth 7, bias := s.cfg.initBias, temp := s.cfg.initTemp } }

/-- R189: the N-th pin or bus write of `lcd.init` fails: the error is that of the call (odd a pin write, even a bus
write), the calls made are the first N, `FUNC` is 0x21 for N in 3..10 and 0x20 otherwise. With the parameters of D7, D8
(log 8, log 9), the order of D12, D13 (log 13), the pin in every frame of D14 (log 14), and `PST` by R201, D18
(log 17). -/
def Obligations.InitFailsAtNthCall : Prop :=
  ∀ (s : State) n e d rest, s.cfg.legal = true → s.abandonAt = none → 1 ≤ n → n ≤ 20 →
    s.answers = List.replicate (n - 1) .ok ++ .fail e d :: rest →
    ∃ t, exec .lcdInit s = .next t ∧
      t.responses = s.responses ++ [.error (if n % 2 = 1 then .dcPin else .bus) e] ∧
      t.trace = s.trace ++ ([.dc .low, .bus [0x20], .dc .low, .bus [0x21], .dc .low, .bus [s.cfg.initTemp], .dc .low,
        .bus [s.cfg.initBias], .dc .low, .bus [0x80 ||| (s.cfg.initVop &&& 0x7F)], .dc .low, .bus [0x20], .dc .low,
        .bus [0x0C], .dc .high, .bus (List.replicate 504 0x00), .dc .low, .bus [0x80], .dc .low,
        .bus [0x40]] : List Event).take n ∧
      t.func = (if 3 ≤ n ∧ n ≤ 10 then 0x21 else 0x20) ∧ t.fb = s.fb ∧ t.pst = .unknown ∧ t.seq = none ∧ t.answers = rest

/-- R191: `lcd.addressing_horizontal` assigns `V`, keeps every other bit of `FUNC`, and sends the one Function Set frame
always; `FUNC` has the new value even where the frame fails. `FUNC` before the frame is D12, D13 (log 13), the pin in
every frame D14 (log 14). -/
def Obligations.AddressingSendsFunctionSet : Prop :=
  ∀ (s : State) (horizontal : Bool), s.abandonAt = none →
    let v := if horizontal then s.func &&& 0xFD else s.func ||| 0x02
    (v.getLsbD 1 = !horizontal ∧ ∀ k, k ≠ 1 → v.getLsbD k = s.func.getLsbD k) ∧
    (∀ rest, s.answers = .ok :: .ok :: rest →
      exec (.lcdAddressingHorizontal horizontal) s = .next { s with
        func := v, trace := s.trace ++ [.dc .low, .bus [v]], wire := s.wire ++ [⟨.low, v, .functionSet⟩],
        answers := rest, dcPin := .low, responses := s.responses ++ [.ok], seq := none }) ∧
    (∀ e d rest, s.answers = .fail e d :: rest → ∃ t, exec (.lcdAddressingHorizontal horizontal) s = .next t ∧
      t.func = v ∧ t.trace = s.trace ++ [.dc .low] ∧ t.responses = s.responses ++ [.error .dcPin e] ∧ t.fb = s.fb) ∧
    (∀ e d rest, s.answers = .ok :: .fail e d :: rest → ∃ t, exec (.lcdAddressingHorizontal horizontal) s = .next t ∧
      t.func = v ∧ t.trace = s.trace ++ [.dc .low, .bus [v]] ∧ t.responses = s.responses ++ [.error .bus e] ∧ t.fb = s.fb)

/-- R192: `lcd.contrast`: into the extended set, temperature, bias, Vop, back to the basic set whatever set was active on
entry; the five bytes in that order; `PD` and `V` kept. The operand bytes are sent as given (D21, log 19); the order is D12, D13
(log 13), the pin in every frame D14 (log 14), the ghost that of R202 (log 17). -/
def Obligations.ContrastSendsItsFrames : Prop :=
  ∀ (s : State) (contrast bias temp : Byte) rest, RunsThrough 10 rest s →
    let ext := s.func ||| 0x01
    let vop := 0x80 ||| (contrast &&& 0x7F)
    let bas := s.func &&& 0xFE
    exec (.lcdContrast contrast bias temp) s = .next { s with
      func := bas,
      trace := s.trace ++ [.dc .low, .bus [ext], .dc .low, .bus [temp], .dc .low, .bus [bias], .dc .low, .bus [vop],
        .dc .low, .bus [bas]],
      wire := s.wire ++ [⟨.low, ext, .functionSet⟩, ⟨.low, temp, .temp⟩, ⟨.low, bias, .bias⟩, ⟨.low, vop, .setVop⟩,
        ⟨.low, bas, .functionSet⟩],
      answers := rest, dcPin := .low, responses := s.responses ++ [.ok], seq := none,
      contrast := some { vop := contrast.setWidth 7, bias := bias, temp := temp } }

/-- R193, B9: the N-th call of `lcd.contrast` fails: `FUNC` stays at the extended value in calls 1 to 8, and is at the
basic one in calls 9 and 10. The order is D12, D13 (log 13), the pin in every frame D14 (log 14), the operand bytes sent as
given D21 (log 19), `PST` R201, D18 (log 17). -/
def Obligations.ContrastFailsAtNthCall : Prop :=
  ∀ (s : State) (contrast bias temp : Byte) n e d rest, s.abandonAt = none → 1 ≤ n → n ≤ 10 →
    s.answers = List.replicate (n - 1) .ok ++ .fail e d :: rest →
    ∃ t, exec (.lcdContrast contrast bias temp) s = .next t ∧
      t.responses = s.responses ++ [.error (if n % 2 = 1 then .dcPin else .bus) e] ∧
      t.trace = s.trace ++ ([.dc .low, .bus [s.func ||| 0x01], .dc .low, .bus [temp], .dc .low, .bus [bias], .dc .low,
        .bus [0x80 ||| (contrast &&& 0x7F)], .dc .low, .bus [s.func &&& 0xFE]] : List Event).take n ∧
      t.func = (if n ≤ 8 then s.func ||| 0x01 else s.func &&& 0xFE) ∧ t.fb = s.fb ∧ t.pst = .unknown ∧ t.seq = none

/-- R194: `lcd.position` sends column then bank, masked, and keeps no cursor. The masks are the parameters of D6
(log 7), the pin in every frame is D14 (log 14). -/
def Obligations.PositionSendsItsFrames : Prop :=
  ∀ (s : State) (x y : Byte) rest, RunsThrough 4 rest s →
    let column := 0x80 ||| (x &&& s.cfg.xMask)
    let bank := 0x40 ||| (y &&& s.cfg.yMask)
    exec (.lcdPosition x y) s = .next { s with
      trace := s.trace ++ [.dc .low, .bus [column], .dc .low, .bus [bank]],
      wire := s.wire ++ [⟨.low, column, .setX⟩, ⟨.low, bank, .setY⟩],
      answers := rest, dcPin := .low, responses := s.responses ++ [.ok], seq := none }

/-- R195: `lcd.clear` sends 504 zero bytes in one data frame, then column 0x80 and bank 0x40; neither `FB` nor `FUNC`
changes; if the data frame fails the positioning frames are not sent. The pin in every frame is D14 (log 14). -/
def Obligations.ClearSendsItsFrames : Prop :=
  ∀ s : State, s.abandonAt = none →
    (∀ rest, s.answers = List.replicate 6 .ok ++ rest →
      exec .lcdClear s = .next { s with
        trace := s.trace ++ [.dc .high, .bus (List.replicate 504 0x00), .dc .low, .bus [0x80], .dc .low, .bus [0x40]],
        wire := s.wire ++ List.replicate 504 ⟨.high, 0x00, .data⟩ ++ [⟨.low, 0x80, .setX⟩, ⟨.low, 0x40, .setY⟩],
        answers := rest, dcPin := .low, responses := s.responses ++ [.ok], seq := none }) ∧
    (∀ n e d rest, 1 ≤ n → n ≤ 6 → s.answers = List.replicate (n - 1) .ok ++ .fail e d :: rest →
      ∃ t, exec .lcdClear s = .next t ∧
        t.responses = s.responses ++ [.error (if n % 2 = 1 then .dcPin else .bus) e] ∧
        t.trace = s.trace ++ ([.dc .high, .bus (List.replicate 504 0x00), .dc .low, .bus [0x80], .dc .low,
          .bus [0x40]] : List Event).take n ∧ t.fb = s.fb ∧ t.func = s.func)

/-- R168: `lcd.data` sends its run, of any length, in one data frame, and changes neither `FB` nor `FUNC`; a failing pin
write sends no run. One pin drive and one write whatever the run are D14, D15 (log 14). -/
def Obligations.DataSendsOneFrame : Prop :=
  ∀ (s : State) (run : List Byte), s.abandonAt = none →
    (∀ rest, s.answers = .ok :: .ok :: rest →
      exec (.lcdData run) s = .next { s with
        trace := s.trace ++ [.dc .high, .bus run], wire := s.wire ++ run.map (fun b => ⟨.high, b, .data⟩),
        answers := rest, dcPin := .high, responses := s.responses ++ [.ok], seq := none }) ∧
    (∀ e d rest, s.answers = .fail e d :: rest → ∃ t, exec (.lcdData run) s = .next t ∧
      t.trace = s.trace ++ [.dc .high] ∧ t.responses = s.responses ++ [.error .dcPin e] ∧ t.wire = s.wire ∧
      t.fb = s.fb ∧ t.func = s.func) ∧
    (∀ e d rest, s.answers = .ok :: .fail e d :: rest → ∃ t, exec (.lcdData run) s = .next t ∧
      t.trace = s.trace ++ [.dc .high, .bus run] ∧ t.responses = s.responses ++ [.error .bus e] ∧
      t.wire = s.wire ++ (run.take d).map (fun b => ⟨.high, b, .data⟩) ∧ t.fb = s.fb ∧ t.func = s.func)

/-- R170: `lcd.refresh` positions at the origin and sends `FB` in one frame (D20; the masks of D6 leave 0 as 0). The pin in
every frame is D14 (log 14); that `PST` stays is R201, D18 (log 17). -/
def Obligations.RefreshSendsFrameBuffer : Prop :=
  ∀ (s : State) rest, RunsThrough 6 rest s → ∃ t, refresh s = .next t ∧
    t.trace = s.trace ++ [.dc .low, .bus [0x80], .dc .low, .bus [0x40], .dc .high,
      .bus ((List.range 504).map (fbRead s.fb))] ∧
    t.fb = s.fb ∧ t.func = s.func ∧ t.pst = s.pst ∧ t.answers = rest

/-! ## The Controller: abort, abandonment, what it leaves alone -/

/-- R28, R244: for every Controller operation and every sequence of answers, the calls made are those of the step list up
to and with the first that does not return `ok`, a `Delay` having no failure (R164); the response is that call's tagged
error; `FB` is unchanged and `FUNC` has the value of the last row reached. The step lists rest on D7 to D14 (log 8 to
log 14), `PST` on D18 (log 17), a call without return on D25 (log 23, log 29). -/
def Obligations.AbortAtFirstFailingCall : Prop :=
  ∀ (s : State) (i : Instr) rows, stepList s.cfg i s.func = some rows → s.abandonAt = none →
    rows.length ≤ s.answers.length →
    let p := play rows s.answers s.func
    ∃ t, exec i s = .next t ∧ t.trace = s.trace ++ p.calls ∧ t.func = p.func ∧ t.fb = s.fb ∧ t.pending = s.pending ∧
      (match p.ends with
       | .ok => t.responses = s.responses ++ [.ok] ∧ t.seq = none
       | .error k e => t.responses = s.responses ++ [.error k e] ∧ t.seq = none ∧ t.pst = .unknown
       | .waiting => t.responses = s.responses ∧ t.pst = s.pst ∧
           t.seq = some { op := i, index := p.calls.length - 1 })

/-- R249, R201 (D17, log 16): an operation abandoned after `k` of its calls has made the first `k` calls of its step list,
gives no response, leaves `FUNC` as after them, and `PST` unknown (D18, log 17). Step lists and `FUNC` rest on D12 to D14
(log 13, log 14); that the device is then unknown is U1. -/
def Obligations.AbandonedAfterCalls : Prop :=
  ∀ (s : State) (i : Instr) rows k rest, stepList s.cfg i s.func = some rows → s.abandonAt = some k → k ≤ rows.length →
    s.answers = List.replicate rows.length .ok ++ rest →
    ∃ t, exec i s = .next t ∧ t.trace = s.trace ++ (rows.take k).map CallRow.event ∧ t.responses = s.responses ∧
      t.func = ((rows.take k).getLast?.map CallRow.func).getD s.func ∧ t.fb = s.fb ∧ t.pst = .unknown ∧ t.seq = none ∧
      t.abandonAt = none ∧ t.wire = []

/-- R241: an error response comes of a Controller operation alone; `RstPinError` of `lcd.reset` and of nothing else, and
`lcd.reset` raises no other. -/
def Obligations.ErrorKindsPerOperation : Prop :=
  ∀ (s t : State) (i : Instr) k e, exec i s = .next t → t.responses = s.responses ++ [.error k e] →
    isControllerOp i = true ∧ (k = .rstPin ↔ i = .lcdReset)

/-- R160, R22: a Controller operation neither reads nor writes `FB`, whatever the environment does. -/
def Obligations.ControllerLeavesFrameBuffer : Prop :=
  ∀ (s : State) (i : Instr), isControllerOp i = true → ∃ t, exec i s = .next t ∧ t.fb = s.fb ∧ t.pending = s.pending ∧
    ∀ m : Mem, exec i { s with fb := m } = .next { t with fb := m }

/-- R23: `FUNC` is written by `lcd.init`, `lcd.addressing_horizontal` and `lcd.contrast` alone; bits 7:3 and `PD` by none
but `lcd.init`, which gives them their default. -/
def Obligations.FuncWriters : Prop :=
  ∀ (s t : State) (i : Instr), exec i s = .next t →
    (i ≠ .lcdInit → (∀ h, i ≠ .lcdAddressingHorizontal h) → (∀ v b c, i ≠ .lcdContrast v b c) → t.func = s.func) ∧
    (i ≠ .lcdInit → t.func &&& 0xFC = s.func &&& 0xFC) ∧
    (i = .lcdInit → s.cfg.legal = true → t.func = s.func ∨ t.func = 0x20 ∨ t.func = 0x21)

/-- R201: how `PST` moves, by the operation and its outcome. The rows past the source's are the spec's choice (D18,
log 17). -/
def Obligations.ProtocolStateTransitions : Prop :=
  ∀ (s t : State) (i : Instr), exec i s = .next t →
    if isControllerOp i = true then
      (t.responses = s.responses ++ [.ok] ∧ t.seq = none ∧
        t.pst = (if i = .lcdReset then .reset
                 else if i = .lcdInit then (if s.pst = .unknown then .unknown else .ready) else s.pst)) ∨
      (∃ k e, t.responses = s.responses ++ [.error k e] ∧ t.seq = none ∧ t.pst = .unknown) ∨
      (t.responses = s.responses ∧ t.seq = none ∧ t.pst = .unknown) ∨
      (t.responses = s.responses ∧ t.seq ≠ none ∧ t.pst = s.pst)
    else t.pst = s.pst

/-- R182, R203, R247: no instruction depends on what ran before: two states that differ in the responses given, the trace,
`PST` and the ghost of R202 alone lead to states that differ there alone, with the same calls and responses added. -/
def Obligations.NoMemoryOfThePast : Prop :=
  ∀ (s : State) (i : Instr) (rs : List Response) (tr : List Event) (p : Pst) (c : Option Contrast),
    match exec i s, exec i { s with responses := rs, trace := tr, pst := p, contrast := c } with
    | .next a, .next b =>
      { a with responses := [], trace := [], pst := .unknown, contrast := none } =
        { b with responses := [], trace := [], pst := .unknown, contrast := none } ∧
        ∃ calls given, a.trace = s.trace ++ calls ∧ b.trace = tr ++ calls ∧
          a.responses = s.responses ++ given ∧ b.responses = rs ++ given
    | .next _, .fault _ => False
    | .next _, .refused _ => False
    | .fault _, .next _ => False
    | .fault f, .fault g => f = g
    | .fault _, .refused _ => False
    | .refused _, .next _ => False
    | .refused _, .fault _ => False
    | .refused f, .refused g => f = g

/-- R34, R57: what an operation of the block does, its calls, its response, `FB`, `FUNC`, `PST`, the bytes it delivers,
depends neither on the device nor on the levels the pins had. -/
def Obligations.BlockIndependentOfDevice : Prop :=
  ∀ (s : State) (i : Instr) (d : Device) (dc rst : Level), isBusInstr i = false →
    match exec i s, exec i { s with dev := d, dcPin := dc, rstPin := rst } with
    | .next a, .next b => b = { a with dev := b.dev, dcPin := b.dcPin, rstPin := b.rstPin }
    | .next _, .fault _ => False
    | .next _, .refused _ => False
    | .fault _, .next _ => False
    | .fault f, .fault g => f = g
    | .fault _, .refused _ => False
    | .refused _, .next _ => False
    | .refused _, .fault _ => False
    | .refused f, .refused g => f = g

/-! ## Invariants every step keeps -/

/-- R8, R21: nothing changes the parameters: no instruction and no step (log 40). -/
def Obligations.ParametersAreFixed : Prop :=
  (∀ (s t : State) (i : Instr), exec i s = .next t → t.cfg = s.cfg) ∧
    ∀ s t : State, step s = .next t → t.cfg = s.cfg

/-- R25: `FUNC` stays one of 0x20 to 0x23, for legal parameters (`FUNC_RESET`: D7, log 8). -/
def Obligations.FuncStaysLegal : Prop :=
  ∀ s t : State, s.cfg.legal = true → FuncLegal s → step s = .next t → FuncLegal t

/-- R50, R58, R67, R137: both memories keep their canonical form: in `FB` addresses rising, all below 504, no zero byte
listed; in the DDRAM exactly the cells 0 to 503, each with its byte (log 4, log 5). -/
def Obligations.MemoryKeepsForm : Prop :=
  ∀ s t : State, MemoryOk s → step s = .next t → MemoryOk t

/-- R106, R220: every byte the Controller puts on the bus has the fixed bits of its command, where `Y_MASK` keeps three bits
of the operand (D6, log 7). -/
def Obligations.WireStaysDecodable : Prop :=
  ∀ s t : State, s.cfg.legal = true → s.cfg.yMask &&& 0xBF = 0x07 → FuncLegal s → WireOk s → step s = .next t → WireOk t

/-- R98, R96, R97: every bus write follows at once the drive of command/data-select of its frame, and one made with it low
is of exactly one byte. -/
def Obligations.TraceStaysFramed : Prop :=
  ∀ s t : State, Framed s → step s = .next t → Framed t

/-- R202: while `PST` is `Ready` and no operation is in progress, `FUNC` is 0x20 or 0x22 and the device, once it has taken
every byte, is in the basic set, in the direction of `FUNC.V`, in normal mode, not powered down, and has the contrast of the
last successful `lcd.contrast` or `lcd.init`. With the device as the model has it (log 1), which records the temperature and
bias bytes whatever they are (U4, log 19), and `PST` by D18 (log 17). -/
def Obligations.ReadyPromiseKept : Prop :=
  ∀ s t : State, ReadyInv s → step s = .next t → ReadyInv t

/-! ## The device -/

/-- R221: a Function Set byte sets the device's three flags at once, in either instruction set, and nothing else. That the
cursor stays where the direction changes is the model's choice (N12, log 38). -/
def Obligations.FunctionSetSetsFlags : Prop :=
  ∀ (s : State) (pd v h : Bool), OutOfReset s →
    exec (.functionSet pd v h) s = .next { s with dev := { s.dev with pd := pd, v := v, h := h } }

/-- R108, R222, R225: the byte `1vvvvvvv` sets the column in the basic set, for a column of 0 to 83, and the Vop in the
extended set, whichever frame it was sent as; a column of 84 or more leaves nothing but the cursor changed (U3,
log 24). -/
def Obligations.ColumnOrVop : Prop :=
  ∀ (s : State) (v : BitVec 7), OutOfReset s →
    (s.dev.h = true →
      exec (.setVop v) s = .next { s with dev := { s.dev with vop := v } } ∧
      exec (.setX v) s = .next { s with dev := { s.dev with vop := v } }) ∧
    (s.dev.h = false → ∀ c : Fin 84, c.val = v.toNat →
      exec (.setX v) s = .next { s with dev := { s.dev with col := c } } ∧
      exec (.setVop v) s = .next { s with dev := { s.dev with col := c } }) ∧
    (s.dev.h = false → 84 ≤ v.toNat → ∃ c b,
      exec (.setX v) s = .next { s with dev := { s.dev with col := c, bank := b }, draws := s.draws + 1 } ∧
      exec (.setVop v) s = .next { s with dev := { s.dev with col := c, bank := b }, draws := s.draws + 1 })

/-- R59, R226: the bank byte sets the bank in the basic set, for a bank of 0 to 5; 6 and 7 leave nothing but the cursor
changed (U3, log 24); in the extended set it changes nothing (R63, R283; log 35). The same of the bank byte of an operand
wider than three bits, which a wider `Y_MASK` lets through (D6, log 41). -/
def Obligations.BankSetsBank : Prop :=
  ∀ (s : State) (y : BitVec 3), OutOfReset s →
    (s.dev.h = false → ∀ b : Fin 6, b.val = y.toNat → exec (.setY y) s = .next { s with dev := { s.dev with bank := b } }) ∧
    (s.dev.h = false → 6 ≤ y.toNat →
      ∃ c b, exec (.setY y) s = .next { s with dev := { s.dev with col := c, bank := b }, draws := s.draws + 1 }) ∧
    (s.dev.h = true → exec (.setY y) s = .next s) ∧
    ∀ b : Byte, 8 ≤ b.toNat → b.toNat < 64 →
      decodeWire { dc := .low, byte := 0x40 ||| b, frame := .setY } = .error (.notThatCommand .setY) ∧
      (s.dev.h = false → ∃ c k, execUnlisted { dc := .low, byte := 0x40 ||| b, frame := .setY } s =
        .next { s with dev := { s.dev with col := c, bank := k }, draws := s.draws + 1 }) ∧
      (s.dev.h = true → execUnlisted { dc := .low, byte := 0x40 ||| b, frame := .setY } s = .next s)

/-- R63, R223, R224: in the extended set a temperature byte and a bias byte, whatever their value, set their setting and
nothing else (U4, log 19). In the basic set, where neither can be set, such a byte is the command its bits say. -/
def Obligations.AnalogueSettingsSet : Prop :=
  ∀ s : State, OutOfReset s →
    (s.dev.h = true → ∀ b : Byte, exec (.temp b) s = .next { s with dev := { s.dev with temp := b } } ∧
      exec (.bias b) s = .next { s with dev := { s.dev with bias := b } }) ∧
    (s.dev.h = false →
      (∀ pd v h, exec (.temp (functionSetByte pd v h)) s = exec (.functionSet pd v h) s ∧
        exec (.bias (functionSetByte pd v h)) s = exec (.functionSet pd v h) s) ∧
      (∀ x : BitVec 7, exec (.temp (1#1 ++ x)) s = exec (.setX x) s ∧ exec (.bias (1#1 ++ x)) s = exec (.setX x) s) ∧
      (∀ y : BitVec 3, exec (.temp (0x08#5 ++ y)) s = exec (.setY y) s ∧ exec (.bias (0x08#5 ++ y)) s = exec (.setY y) s) ∧
      exec (.temp 0x0C) s = exec .displayNormal s ∧ exec (.bias 0x0C) s = exec .displayNormal s)

/-- R227: `DISPLAY_NORMAL` in the basic set selects the normal mode and nothing else. -/
def Obligations.DisplayNormalSetsMode : Prop :=
  ∀ s : State, OutOfReset s → s.dev.h = false →
    exec .displayNormal s = .next { s with dev := { s.dev with mode := .normal } }

/-- R60, R228: a data byte is stored at the cursor, every other cell as before, and the cursor advances; in horizontal
addressing by `a <- (a + 1) mod 504`. The vertical advance is the parameter VERT_STEP, by default
bank + 1, then the next column (log 20). -/
def Obligations.DataByteStoresAndAdvances : Prop :=
  ∀ (s : State) (d : Byte), OutOfReset s →
    let a := s.dev.bank.val * 84 + s.dev.col.val
    ∃ t, exec (.dataByte d) s = .next t ∧ ddramRead t.dev.ddram a = some d ∧
      (∀ b, b ≠ a → ddramRead t.dev.ddram b = ddramRead s.dev.ddram b) ∧
      (s.dev.v = false → t.dev.bank.val * 84 + t.dev.col.val = (a + 1) % 504) ∧
      (s.dev.v = true → (t.dev.col, t.dev.bank) = s.cfg.vertStep.apply s.dev.col s.dev.bank) ∧
      (s.dev.v = true → s.cfg.vertStep = .bankThenColumn →
        (t.dev.col, t.dev.bank) = if s.dev.bank = 5 then (s.dev.col + 1, 0) else (s.dev.col, s.dev.bank + 1)) ∧
      t = { s with dev := { s.dev with ddram := t.dev.ddram, col := t.dev.col, bank := t.dev.bank } }

/-- R57: a byte the device takes changes the device alone, and always has a next state; while the reset line is active
nothing is known of the device afterwards (log 30). The same of a command byte that is no row of the table (log 41). -/
def Obligations.DeviceStepsTouchDeviceOnly : Prop :=
  (∀ (s : State) (i : Instr), isBusInstr i = true →
    ∃ d n, exec i s = .next { s with dev := d, draws := n } ∧
      (s.rstPin = s.cfg.rstActive → d = Device.arbitrary s.draws)) ∧
  ∀ (s : State) (w : WireByte), ∃ d n, execUnlisted w s = .next { s with dev := d, draws := n } ∧
    (s.rstPin = s.cfg.rstActive → d = Device.arbitrary s.draws)

/-- R62: 504 data bytes write every cell of the DDRAM exactly once from any cursor, in an order that the cursor and the
direction alone fix, and leave the cursor where it was. In vertical addressing with the default VERT_STEP (log 20). -/
def Obligations.FullFrameCoversDdram : Prop :=
  ∀ s : State, OutOfReset s → StepsThroughAllCells s →
    ∃ cell : Fin 504 → Fin 504, Function.Bijective cell ∧
      ∀ run : List Byte, run.length = 504 →
        ∃ t, settled { s with wire := run.map (fun b => { dc := .high, byte := b, frame := .data }) } = .next t ∧
          t.wire = [] ∧ t.dev.col = s.dev.col ∧ t.dev.bank = s.dev.bank ∧
          ∀ k : Fin 504, ddramRead t.dev.ddram (cell k).val = run[k.val]?

/-- R56: sent from the origin in horizontal addressing, `FB[i]` lands in cell `i` of the DDRAM, and the cursor is back at
the origin (R62). -/
def Obligations.FlushMirrorsFrameBuffer : Prop :=
  ∀ (s : State) rest, MirrorReady s → RunsThrough 2 rest s →
    ∃ t u, flush s = .next t ∧ settled t = .next u ∧ u.wire = [] ∧
      (∀ i, i < 504 → ddramRead u.dev.ddram i = some (fbRead s.fb i)) ∧
      u.dev.col = 0 ∧ u.dev.bank = 0 ∧ u.fb = s.fb ∧ u.func = s.func

/-- R194, R225, R226: `lcd.position` with a column of 0 to 83 and a bank of 0 to 5 puts the cursor there, the device being
in the basic set, and changes nothing else of it; with any other operands the cursor is somewhere (U3, log 24, log 41), and
nothing else of it changes either. R108, R283: in the extended set the device reads the column byte as a Vop setting, and
the contrast changes instead of the cursor (the bank byte: log 35). Legal masks: D6, log 7. -/
def Obligations.PositionMovesCursor : Prop :=
  ∀ (s : State) (x y : Byte) rest, s.cfg.legal = true → s.wire = [] → OutOfReset s → RunsThrough 4 rest s →
    (s.dev.h = false → ∀ (c : Fin 84) (b : Fin 6), c.val = x.toNat → b.val = y.toNat →
      ∃ t u, exec (.lcdPosition x y) s = .next t ∧ settled t = .next u ∧ u.wire = [] ∧
        u.dev = { s.dev with col := c, bank := b }) ∧
    (s.dev.h = false → ∃ t u c b, exec (.lcdPosition x y) s = .next t ∧ settled t = .next u ∧ u.wire = [] ∧
      u.dev = { s.dev with col := c, bank := b }) ∧
    (s.dev.h = true →
      ∃ t u, exec (.lcdPosition x y) s = .next t ∧ settled t = .next u ∧ u.wire = [] ∧
        u.dev = { s.dev with vop := x.setWidth 7 })

/-- R192, R222 to R224: after a successful `lcd.contrast` the device, whatever it held, is in the basic set with the
direction and power-down flag of `FUNC`, has the contrast of the operands, and is otherwise as it was. The operand bytes are
sent and recorded as given (D21, U4, log 19). That the cursor stays though the Function Set bytes may change the device's
addressing direction is the model's choice, unsafe (N12, log 38). -/
def Obligations.ContrastProgramsDevice : Prop :=
  ∀ (s : State) (contrast bias temp : Byte) rest, FuncLegal s → s.wire = [] → OutOfReset s → RunsThrough 10 rest s →
    ∃ t u, exec (.lcdContrast contrast bias temp) s = .next t ∧ settled t = .next u ∧ u.wire = [] ∧
      u.dev = { s.dev with pd := false, v := s.func.getLsbD 1, h := false, vop := contrast.setWidth 7, bias := bias,
                           temp := temp }

/-- R195, R196, R285: `lcd.clear` leaves the DDRAM all zero and the cursor at the origin, from any cursor and in either
direction, and `FB` as it was. In vertical addressing with the default VERT_STEP (log 20). -/
def Obligations.ClearBlanksDisplay : Prop :=
  ∀ (s : State) rest, s.wire = [] → OutOfReset s → s.dev.h = false → StepsThroughAllCells s → RunsThrough 6 rest s →
    ∃ t u, exec .lcdClear s = .next t ∧ settled t = .next u ∧ u.wire = [] ∧
      (∀ a, a < 504 → ddramRead u.dev.ddram a = some 0x00) ∧
      u.dev = { s.dev with ddram := u.dev.ddram, col := 0, bank := 0 } ∧ u.fb = s.fb ∧ u.func = s.func

/-- R190: after a successful `lcd.init` the device, whatever it held, is in the basic set, horizontal, in normal mode,
its DDRAM all zero, the cursor at the origin, with the contrast of the parameters (D8, log 9); `FUNC = 0x20`; `FB` as it
was. -/
def Obligations.InitConfiguresDevice : Prop :=
  ∀ (s : State) rest, s.cfg.legal = true → s.wire = [] → OutOfReset s → RunsThrough 20 rest s →
    ∃ t u, exec .lcdInit s = .next t ∧ settled t = .next u ∧ u.wire = [] ∧ u.func = 0x20 ∧ u.fb = s.fb ∧
      (∀ a, a < 504 → ddramRead u.dev.ddram a = some 0x00) ∧
      u.dev = { pd := false, v := false, h := false, col := 0, bank := 0, ddram := u.dev.ddram, mode := .normal,
                vop := s.cfg.initVop.setWidth 7, bias := s.cfg.initBias, temp := s.cfg.initTemp }
end

