-- ==== Sys2Proof/Laws/Decode.lean ====
section
/-! SUPPORT. The numbering of the request port and the numeric fields of a request, said once. -/

namespace Sys2Proof

/-- By default the port is numbered as R91 numbers it. -/
@[simp] theorem portNumber_default (row : BitVec 4) : Params.default.portNumber row = row := by
  revert row; decide

/-- By default a number on the port is the number of R91. -/
@[simp] theorem row_default (op : BitVec 4) : Params.default.row op = op := by
  revert op; decide

/-- With legal parameters every operation has its number on the port, and that number stands for it (D1). -/
theorem row_portNumber {p : Params} (h : p.legal = true) (row : BitVec 4) : p.row (p.portNumber row) = row := by
  simp only [Params.legal, Bool.and_eq_true, beq_iff_eq, List.all_eq_true, List.mem_range, List.contains_iff_mem] at h
  have hm : row ∈ p.numbering := by
    have := h.2 row.toNat row.isLt
    rwa [BitVec.ofNat_toNat, BitVec.setWidth_eq] at this
  have hi := List.idxOf_lt_length_iff.2 hm
  have hl : p.numbering.length = 16 := h.1.2
  have hn : (p.portNumber row).toNat = p.numbering.idxOf row := by
    rw [Params.portNumber, BitVec.toNat_ofNat]
    omega
  rw [Params.row, hn, List.getD_eq_getElem _ _ hi, List.getElem_idxOf]

/-- With legal parameters the coordinate fields have 8 bits at least. -/
theorem coordW_of_legal {p : Params} (h : p.legal = true) : 8 ≤ p.coordW := by
  simp only [Params.legal, Bool.and_eq_true, decide_eq_true_eq] at h
  omega

/-- A number that fits a signed field is read back from it. -/
theorem signedField_of_fits {w : Nat} (hw : 8 ≤ w) {z : Int} (h : coordFits w z = true) : signedField w z = z := by
  simp only [coordFits, Bool.and_eq_true, decide_eq_true_eq] at h
  rw [signedField, BitVec.toInt_ofInt, Int.bmod_eq_of_le]
  · have : (2 : Int) ^ w = 2 * 2 ^ (w - 1) := by rw [← pow_succ']; congr 1; omega
    push_cast; omega
  · have : (2 : Int) ^ w = 2 * 2 ^ (w - 1) := by rw [← pow_succ']; congr 1; omega
    push_cast; omega

/-- A byte put on a field of 8 bits or more is read back from its low byte. -/
theorem lowByteOfField_toNat {w : Nat} (hw : 8 ≤ w) (b : Byte) : lowByteOfField w b.toNat = b := by
  apply BitVec.eq_of_toNat_eq
  have hb := b.isLt
  have : 2 ^ 8 ≤ 2 ^ w := Nat.pow_le_pow_right (by decide) hw
  simp only [lowByteOfField, BitVec.ofInt_natCast, BitVec.toNat_setWidth, BitVec.toNat_ofNat]
  rw [Nat.mod_eq_of_lt (show b.toNat < 2 ^ w by omega), Nat.mod_eq_of_lt hb]

end Sys2Proof
end

