-- ==== Sys2Proof/Laws/State.lean ====
section
/-! SUPPORT. For each named update of the state, what each field is afterwards: true by unfolding, so that no later proof
unfolds an update. -/

namespace Sys2Proof.Machine

variable (s : State)

/-! `record` -/

@[simp] theorem record_cfg (ev : Event) : (record ev s).cfg = s.cfg := rfl
@[simp] theorem record_fb (ev : Event) : (record ev s).fb = s.fb := rfl
@[simp] theorem record_func (ev : Event) : (record ev s).func = s.func := rfl
@[simp] theorem record_seq (ev : Event) : (record ev s).seq = s.seq := rfl
@[simp] theorem record_dcPin (ev : Event) : (record ev s).dcPin = s.dcPin := rfl
@[simp] theorem record_rstPin (ev : Event) : (record ev s).rstPin = s.rstPin := rfl
@[simp] theorem record_answers (ev : Event) : (record ev s).answers = s.answers := rfl
@[simp] theorem record_abandonAt (ev : Event) : (record ev s).abandonAt = s.abandonAt := rfl
@[simp] theorem record_pending (ev : Event) : (record ev s).pending = s.pending := rfl
@[simp] theorem record_responses (ev : Event) : (record ev s).responses = s.responses := rfl
@[simp] theorem record_trace (ev : Event) : (record ev s).trace = s.trace ++ [ev] := rfl
@[simp] theorem record_pst (ev : Event) : (record ev s).pst = s.pst := rfl
@[simp] theorem record_contrast (ev : Event) : (record ev s).contrast = s.contrast := rfl
@[simp] theorem record_wire (ev : Event) : (record ev s).wire = s.wire := rfl
@[simp] theorem record_dev (ev : Event) : (record ev s).dev = s.dev := rfl
@[simp] theorem record_draws (ev : Event) : (record ev s).draws = s.draws := rfl

/-! `advance` -/

@[simp] theorem advance_cfg : (advance s).cfg = s.cfg := rfl
@[simp] theorem advance_fb : (advance s).fb = s.fb := rfl
@[simp] theorem advance_func : (advance s).func = s.func := rfl
@[simp] theorem advance_seq : (advance s).seq = s.seq.map Position.next := rfl
@[simp] theorem advance_dcPin : (advance s).dcPin = s.dcPin := rfl
@[simp] theorem advance_rstPin : (advance s).rstPin = s.rstPin := rfl
@[simp] theorem advance_answers : (advance s).answers = s.answers := rfl
@[simp] theorem advance_abandonAt : (advance s).abandonAt = s.abandonAt := rfl
@[simp] theorem advance_pending : (advance s).pending = s.pending := rfl
@[simp] theorem advance_responses : (advance s).responses = s.responses := rfl
@[simp] theorem advance_trace : (advance s).trace = s.trace := rfl
@[simp] theorem advance_pst : (advance s).pst = s.pst := rfl
@[simp] theorem advance_contrast : (advance s).contrast = s.contrast := rfl
@[simp] theorem advance_wire : (advance s).wire = s.wire := rfl
@[simp] theorem advance_dev : (advance s).dev = s.dev := rfl
@[simp] theorem advance_draws : (advance s).draws = s.draws := rfl

/-! `setFunc` -/

@[simp] theorem setFunc_cfg (v : Byte) : (setFunc v s).cfg = s.cfg := rfl
@[simp] theorem setFunc_fb (v : Byte) : (setFunc v s).fb = s.fb := rfl
@[simp] theorem setFunc_func (v : Byte) : (setFunc v s).func = v := rfl
@[simp] theorem setFunc_seq (v : Byte) : (setFunc v s).seq = s.seq := rfl
@[simp] theorem setFunc_dcPin (v : Byte) : (setFunc v s).dcPin = s.dcPin := rfl
@[simp] theorem setFunc_rstPin (v : Byte) : (setFunc v s).rstPin = s.rstPin := rfl
@[simp] theorem setFunc_answers (v : Byte) : (setFunc v s).answers = s.answers := rfl
@[simp] theorem setFunc_abandonAt (v : Byte) : (setFunc v s).abandonAt = s.abandonAt := rfl
@[simp] theorem setFunc_pending (v : Byte) : (setFunc v s).pending = s.pending := rfl
@[simp] theorem setFunc_responses (v : Byte) : (setFunc v s).responses = s.responses := rfl
@[simp] theorem setFunc_trace (v : Byte) : (setFunc v s).trace = s.trace := rfl
@[simp] theorem setFunc_pst (v : Byte) : (setFunc v s).pst = s.pst := rfl
@[simp] theorem setFunc_contrast (v : Byte) : (setFunc v s).contrast = s.contrast := rfl
@[simp] theorem setFunc_wire (v : Byte) : (setFunc v s).wire = s.wire := rfl
@[simp] theorem setFunc_dev (v : Byte) : (setFunc v s).dev = s.dev := rfl
@[simp] theorem setFunc_draws (v : Byte) : (setFunc v s).draws = s.draws := rfl

/-! `setFb` -/

@[simp] theorem setFb_cfg (m : Mem) : (setFb m s).cfg = s.cfg := rfl
@[simp] theorem setFb_fb (m : Mem) : (setFb m s).fb = m := rfl
@[simp] theorem setFb_func (m : Mem) : (setFb m s).func = s.func := rfl
@[simp] theorem setFb_seq (m : Mem) : (setFb m s).seq = s.seq := rfl
@[simp] theorem setFb_dcPin (m : Mem) : (setFb m s).dcPin = s.dcPin := rfl
@[simp] theorem setFb_rstPin (m : Mem) : (setFb m s).rstPin = s.rstPin := rfl
@[simp] theorem setFb_answers (m : Mem) : (setFb m s).answers = s.answers := rfl
@[simp] theorem setFb_abandonAt (m : Mem) : (setFb m s).abandonAt = s.abandonAt := rfl
@[simp] theorem setFb_pending (m : Mem) : (setFb m s).pending = s.pending := rfl
@[simp] theorem setFb_responses (m : Mem) : (setFb m s).responses = s.responses := rfl
@[simp] theorem setFb_trace (m : Mem) : (setFb m s).trace = s.trace := rfl
@[simp] theorem setFb_pst (m : Mem) : (setFb m s).pst = s.pst := rfl
@[simp] theorem setFb_contrast (m : Mem) : (setFb m s).contrast = s.contrast := rfl
@[simp] theorem setFb_wire (m : Mem) : (setFb m s).wire = s.wire := rfl
@[simp] theorem setFb_dev (m : Mem) : (setFb m s).dev = s.dev := rfl
@[simp] theorem setFb_draws (m : Mem) : (setFb m s).draws = s.draws := rfl

/-! `respond` -/

@[simp] theorem respond_cfg (r : Response) : (respond r s).cfg = s.cfg := rfl
@[simp] theorem respond_fb (r : Response) : (respond r s).fb = s.fb := rfl
@[simp] theorem respond_func (r : Response) : (respond r s).func = s.func := rfl
@[simp] theorem respond_seq (r : Response) : (respond r s).seq = s.seq := rfl
@[simp] theorem respond_dcPin (r : Response) : (respond r s).dcPin = s.dcPin := rfl
@[simp] theorem respond_rstPin (r : Response) : (respond r s).rstPin = s.rstPin := rfl
@[simp] theorem respond_answers (r : Response) : (respond r s).answers = s.answers := rfl
@[simp] theorem respond_abandonAt (r : Response) : (respond r s).abandonAt = s.abandonAt := rfl
@[simp] theorem respond_pending (r : Response) : (respond r s).pending = s.pending := rfl
@[simp] theorem respond_responses (r : Response) : (respond r s).responses = s.responses ++ [r] := rfl
@[simp] theorem respond_trace (r : Response) : (respond r s).trace = s.trace := rfl
@[simp] theorem respond_pst (r : Response) : (respond r s).pst = s.pst := rfl
@[simp] theorem respond_contrast (r : Response) : (respond r s).contrast = s.contrast := rfl
@[simp] theorem respond_wire (r : Response) : (respond r s).wire = s.wire := rfl
@[simp] theorem respond_dev (r : Response) : (respond r s).dev = s.dev := rfl
@[simp] theorem respond_draws (r : Response) : (respond r s).draws = s.draws := rfl

/-! `loseDevice` -/

@[simp] theorem loseDevice_cfg : (loseDevice s).cfg = s.cfg := rfl
@[simp] theorem loseDevice_fb : (loseDevice s).fb = s.fb := rfl
@[simp] theorem loseDevice_func : (loseDevice s).func = s.func := rfl
@[simp] theorem loseDevice_seq : (loseDevice s).seq = s.seq := rfl
@[simp] theorem loseDevice_dcPin : (loseDevice s).dcPin = s.dcPin := rfl
@[simp] theorem loseDevice_rstPin : (loseDevice s).rstPin = s.rstPin := rfl
@[simp] theorem loseDevice_answers : (loseDevice s).answers = s.answers := rfl
@[simp] theorem loseDevice_abandonAt : (loseDevice s).abandonAt = s.abandonAt := rfl
@[simp] theorem loseDevice_pending : (loseDevice s).pending = s.pending := rfl
@[simp] theorem loseDevice_responses : (loseDevice s).responses = s.responses := rfl
@[simp] theorem loseDevice_trace : (loseDevice s).trace = s.trace := rfl
@[simp] theorem loseDevice_pst : (loseDevice s).pst = s.pst := rfl
@[simp] theorem loseDevice_contrast : (loseDevice s).contrast = s.contrast := rfl
@[simp] theorem loseDevice_wire : (loseDevice s).wire = s.wire := rfl
@[simp] theorem loseDevice_dev : (loseDevice s).dev = Device.arbitrary s.draws := rfl
@[simp] theorem loseDevice_draws : (loseDevice s).draws = s.draws + 1 := rfl

/-! `accept` -/

@[simp] theorem accept_cfg (i : Instr) : (accept i s).cfg = s.cfg := rfl
@[simp] theorem accept_fb (i : Instr) : (accept i s).fb = s.fb := rfl
@[simp] theorem accept_func (i : Instr) : (accept i s).func = s.func := rfl
@[simp] theorem accept_seq (i : Instr) : (accept i s).seq = some { op := i, index := 0 } := rfl
@[simp] theorem accept_dcPin (i : Instr) : (accept i s).dcPin = s.dcPin := rfl
@[simp] theorem accept_rstPin (i : Instr) : (accept i s).rstPin = s.rstPin := rfl
@[simp] theorem accept_answers (i : Instr) : (accept i s).answers = s.answers := rfl
@[simp] theorem accept_abandonAt (i : Instr) : (accept i s).abandonAt = s.abandonAt := rfl
@[simp] theorem accept_pending (i : Instr) : (accept i s).pending = s.pending := rfl
@[simp] theorem accept_responses (i : Instr) : (accept i s).responses = s.responses := rfl
@[simp] theorem accept_trace (i : Instr) : (accept i s).trace = s.trace := rfl
@[simp] theorem accept_pst (i : Instr) : (accept i s).pst = s.pst := rfl
@[simp] theorem accept_contrast (i : Instr) : (accept i s).contrast = s.contrast := rfl
@[simp] theorem accept_wire (i : Instr) : (accept i s).wire = s.wire := rfl
@[simp] theorem accept_dev (i : Instr) : (accept i s).dev = s.dev := rfl
@[simp] theorem accept_draws (i : Instr) : (accept i s).draws = s.draws := rfl

/-! `idle` -/

@[simp] theorem idle_cfg : (idle s).cfg = s.cfg := rfl
@[simp] theorem idle_fb : (idle s).fb = s.fb := rfl
@[simp] theorem idle_func : (idle s).func = s.func := rfl
@[simp] theorem idle_seq : (idle s).seq = none := rfl
@[simp] theorem idle_dcPin : (idle s).dcPin = s.dcPin := rfl
@[simp] theorem idle_rstPin : (idle s).rstPin = s.rstPin := rfl
@[simp] theorem idle_answers : (idle s).answers = s.answers := rfl
@[simp] theorem idle_abandonAt : (idle s).abandonAt = none := rfl
@[simp] theorem idle_pending : (idle s).pending = s.pending := rfl
@[simp] theorem idle_responses : (idle s).responses = s.responses := rfl
@[simp] theorem idle_trace : (idle s).trace = s.trace := rfl
@[simp] theorem idle_pst : (idle s).pst = s.pst := rfl
@[simp] theorem idle_contrast : (idle s).contrast = s.contrast := rfl
@[simp] theorem idle_wire : (idle s).wire = s.wire := rfl
@[simp] theorem idle_dev : (idle s).dev = s.dev := rfl
@[simp] theorem idle_draws : (idle s).draws = s.draws := rfl

/-! `setDevice` -/

@[simp] theorem setDevice_cfg (d : Device) : (setDevice d s).cfg = s.cfg := rfl
@[simp] theorem setDevice_fb (d : Device) : (setDevice d s).fb = s.fb := rfl
@[simp] theorem setDevice_func (d : Device) : (setDevice d s).func = s.func := rfl
@[simp] theorem setDevice_seq (d : Device) : (setDevice d s).seq = s.seq := rfl
@[simp] theorem setDevice_dcPin (d : Device) : (setDevice d s).dcPin = s.dcPin := rfl
@[simp] theorem setDevice_rstPin (d : Device) : (setDevice d s).rstPin = s.rstPin := rfl
@[simp] theorem setDevice_answers (d : Device) : (setDevice d s).answers = s.answers := rfl
@[simp] theorem setDevice_abandonAt (d : Device) : (setDevice d s).abandonAt = s.abandonAt := rfl
@[simp] theorem setDevice_pending (d : Device) : (setDevice d s).pending = s.pending := rfl
@[simp] theorem setDevice_responses (d : Device) : (setDevice d s).responses = s.responses := rfl
@[simp] theorem setDevice_trace (d : Device) : (setDevice d s).trace = s.trace := rfl
@[simp] theorem setDevice_pst (d : Device) : (setDevice d s).pst = s.pst := rfl
@[simp] theorem setDevice_contrast (d : Device) : (setDevice d s).contrast = s.contrast := rfl
@[simp] theorem setDevice_wire (d : Device) : (setDevice d s).wire = s.wire := rfl
@[simp] theorem setDevice_dev (d : Device) : (setDevice d s).dev = d := rfl
@[simp] theorem setDevice_draws (d : Device) : (setDevice d s).draws = s.draws := rfl

/-! `takeByte` -/

@[simp] theorem takeByte_cfg (rest : List WireByte) : (takeByte rest s).cfg = s.cfg := rfl
@[simp] theorem takeByte_fb (rest : List WireByte) : (takeByte rest s).fb = s.fb := rfl
@[simp] theorem takeByte_func (rest : List WireByte) : (takeByte rest s).func = s.func := rfl
@[simp] theorem takeByte_seq (rest : List WireByte) : (takeByte rest s).seq = s.seq := rfl
@[simp] theorem takeByte_dcPin (rest : List WireByte) : (takeByte rest s).dcPin = s.dcPin := rfl
@[simp] theorem takeByte_rstPin (rest : List WireByte) : (takeByte rest s).rstPin = s.rstPin := rfl
@[simp] theorem takeByte_answers (rest : List WireByte) : (takeByte rest s).answers = s.answers := rfl
@[simp] theorem takeByte_abandonAt (rest : List WireByte) : (takeByte rest s).abandonAt = s.abandonAt := rfl
@[simp] theorem takeByte_pending (rest : List WireByte) : (takeByte rest s).pending = s.pending := rfl
@[simp] theorem takeByte_responses (rest : List WireByte) : (takeByte rest s).responses = s.responses := rfl
@[simp] theorem takeByte_trace (rest : List WireByte) : (takeByte rest s).trace = s.trace := rfl
@[simp] theorem takeByte_pst (rest : List WireByte) : (takeByte rest s).pst = s.pst := rfl
@[simp] theorem takeByte_contrast (rest : List WireByte) : (takeByte rest s).contrast = s.contrast := rfl
@[simp] theorem takeByte_wire (rest : List WireByte) : (takeByte rest s).wire = rest := rfl
@[simp] theorem takeByte_dev (rest : List WireByte) : (takeByte rest s).dev = s.dev := rfl
@[simp] theorem takeByte_draws (rest : List WireByte) : (takeByte rest s).draws = s.draws := rfl

/-! `takeRequest` -/

@[simp] theorem takeRequest_cfg (p : Pending) (rest : List Pending) : (takeRequest p rest s).cfg = s.cfg := rfl
@[simp] theorem takeRequest_fb (p : Pending) (rest : List Pending) : (takeRequest p rest s).fb = s.fb := rfl
@[simp] theorem takeRequest_func (p : Pending) (rest : List Pending) : (takeRequest p rest s).func = s.func := rfl
@[simp] theorem takeRequest_seq (p : Pending) (rest : List Pending) : (takeRequest p rest s).seq = s.seq := rfl
@[simp] theorem takeRequest_dcPin (p : Pending) (rest : List Pending) : (takeRequest p rest s).dcPin = s.dcPin := rfl
@[simp] theorem takeRequest_rstPin (p : Pending) (rest : List Pending) : (takeRequest p rest s).rstPin = s.rstPin := rfl
@[simp] theorem takeRequest_answers (p : Pending) (rest : List Pending) : (takeRequest p rest s).answers = s.answers := rfl
@[simp] theorem takeRequest_abandonAt (p : Pending) (rest : List Pending) : (takeRequest p rest s).abandonAt = p.abandonAt := rfl
@[simp] theorem takeRequest_pending (p : Pending) (rest : List Pending) : (takeRequest p rest s).pending = rest := rfl
@[simp] theorem takeRequest_responses (p : Pending) (rest : List Pending) : (takeRequest p rest s).responses = s.responses := rfl
@[simp] theorem takeRequest_trace (p : Pending) (rest : List Pending) : (takeRequest p rest s).trace = s.trace := rfl
@[simp] theorem takeRequest_pst (p : Pending) (rest : List Pending) : (takeRequest p rest s).pst = s.pst := rfl
@[simp] theorem takeRequest_contrast (p : Pending) (rest : List Pending) : (takeRequest p rest s).contrast = s.contrast := rfl
@[simp] theorem takeRequest_wire (p : Pending) (rest : List Pending) : (takeRequest p rest s).wire = s.wire := rfl
@[simp] theorem takeRequest_dev (p : Pending) (rest : List Pending) : (takeRequest p rest s).dev = s.dev := rfl
@[simp] theorem takeRequest_draws (p : Pending) (rest : List Pending) : (takeRequest p rest s).draws = s.draws := rfl

/-! `deliver` -/

@[simp] theorem deliver_cfg (frame : Frame) (run : List Byte) (n : Nat) : (deliver frame run n s).cfg = s.cfg := rfl
@[simp] theorem deliver_fb (frame : Frame) (run : List Byte) (n : Nat) : (deliver frame run n s).fb = s.fb := rfl
@[simp] theorem deliver_func (frame : Frame) (run : List Byte) (n : Nat) : (deliver frame run n s).func = s.func := rfl
@[simp] theorem deliver_seq (frame : Frame) (run : List Byte) (n : Nat) : (deliver frame run n s).seq = s.seq := rfl
@[simp] theorem deliver_dcPin (frame : Frame) (run : List Byte) (n : Nat) : (deliver frame run n s).dcPin = s.dcPin := rfl
@[simp] theorem deliver_rstPin (frame : Frame) (run : List Byte) (n : Nat) : (deliver frame run n s).rstPin = s.rstPin := rfl
@[simp] theorem deliver_answers (frame : Frame) (run : List Byte) (n : Nat) : (deliver frame run n s).answers = s.answers := rfl
@[simp] theorem deliver_abandonAt (frame : Frame) (run : List Byte) (n : Nat) : (deliver frame run n s).abandonAt = s.abandonAt := rfl
@[simp] theorem deliver_pending (frame : Frame) (run : List Byte) (n : Nat) : (deliver frame run n s).pending = s.pending := rfl
@[simp] theorem deliver_responses (frame : Frame) (run : List Byte) (n : Nat) : (deliver frame run n s).responses = s.responses := rfl
@[simp] theorem deliver_trace (frame : Frame) (run : List Byte) (n : Nat) : (deliver frame run n s).trace = s.trace := rfl
@[simp] theorem deliver_pst (frame : Frame) (run : List Byte) (n : Nat) : (deliver frame run n s).pst = s.pst := rfl
@[simp] theorem deliver_contrast (frame : Frame) (run : List Byte) (n : Nat) : (deliver frame run n s).contrast = s.contrast := rfl
@[simp] theorem deliver_wire (frame : Frame) (run : List Byte) (n : Nat) : (deliver frame run n s).wire = s.wire ++ (run.take n).map (fun b => { dc := s.dcPin, byte := b, frame := frame }) := rfl
@[simp] theorem deliver_dev (frame : Frame) (run : List Byte) (n : Nat) : (deliver frame run n s).dev = s.dev := rfl
@[simp] theorem deliver_draws (frame : Frame) (run : List Byte) (n : Nat) : (deliver frame run n s).draws = s.draws := rfl

end Sys2Proof.Machine
end

