-- ==== Sys2Proof/Laws/Device.lean ====
section
/-! SUPPORT. What each operation of Machine/Device.lean can do, said once. -/

namespace Sys2Proof.Machine

/-- A byte the device takes changes the device, and the count of free values, alone. -/
def DeviceOnly (s t : State) : Prop :=
  t = { s with dev := t.dev, draws := t.draws }

theorem loseDevice_deviceOnly (s : State) : DeviceOnly s (loseDevice s) := rfl
theorem loseCursor_deviceOnly (s : State) : DeviceOnly s (loseCursor s) := rfl
theorem setDevice_deviceOnly (d : Device) (s : State) : DeviceOnly s (setDevice d s) := rfl

/-- A byte taken while the reset line is not active has its effect. -/
@[simp] theorem deviceTakes_of_outOfReset {effect : State → State} {s : State} (h : s.rstPin ≠ s.cfg.rstActive) :
    deviceTakes effect s = effect s := if_neg h

/-- A byte taken while the reset line is active leaves nothing known of the device. -/
theorem deviceTakes_of_held {effect : State → State} {s : State} (h : s.rstPin = s.cfg.rstActive) :
    deviceTakes effect s = loseDevice s := if_pos h

theorem deviceTakes_deviceOnly {effect : State → State} (h : ∀ s, DeviceOnly s (effect s)) (s : State) :
    DeviceOnly s (deviceTakes effect s) := by
  by_cases hr : s.rstPin = s.cfg.rstActive
  · rw [deviceTakes_of_held hr]; exact loseDevice_deviceOnly s
  · rw [deviceTakes_of_outOfReset hr]; exact h s

/-- The byte `1vvvvvvv` sets the Vop, sets the column, or leaves the cursor unknown. -/
theorem columnOrVop_cases (v : BitVec 7) (s : State) :
    (s.dev.h = true ∧ columnOrVop v s = setDevice { s.dev with vop := v } s) ∨
      (s.dev.h = false ∧ ∃ c : Fin 84, c.val = v.toNat ∧ columnOrVop v s = setDevice { s.dev with col := c } s) ∨
      (s.dev.h = false ∧ 84 ≤ v.toNat ∧ columnOrVop v s = loseCursor s) := by
  unfold columnOrVop
  cases hh : s.dev.h
  · by_cases hv : v.toNat < 84
    · exact .inr (.inl ⟨rfl, ⟨v.toNat, hv⟩, rfl, by simp [hv]⟩)
    · exact .inr (.inr ⟨rfl, by omega, by simp [hv]⟩)
  · exact .inl ⟨rfl, by simp⟩

/-- The bank byte sets the bank, leaves the cursor unknown, or, in the extended set, changes nothing. -/
theorem bankAddress_cases (y : Nat) (s : State) :
    (s.dev.h = true ∧ bankAddress y s = s) ∨
      (s.dev.h = false ∧ ∃ b : Fin 6, b.val = y ∧ bankAddress y s = setDevice { s.dev with bank := b } s) ∨
      (s.dev.h = false ∧ 6 ≤ y ∧ bankAddress y s = loseCursor s) := by
  unfold bankAddress
  cases hh : s.dev.h
  · by_cases hy : y < 6
    · exact .inr (.inl ⟨rfl, ⟨y, hy⟩, rfl, by simp [hy]⟩)
    · exact .inr (.inr ⟨rfl, by omega, by simp [hy]⟩)
  · exact .inl ⟨rfl, by simp⟩

theorem columnOrVop_deviceOnly (v : BitVec 7) (s : State) : DeviceOnly s (columnOrVop v s) := by
  rcases columnOrVop_cases v s with ⟨-, e⟩ | ⟨-, c, -, e⟩ | ⟨-, -, e⟩ <;> rw [e] <;> rfl

theorem bankAddress_deviceOnly (y : Nat) (s : State) : DeviceOnly s (bankAddress y s) := by
  rcases bankAddress_cases y s with ⟨-, e⟩ | ⟨-, b, -, e⟩ | ⟨-, -, e⟩ <;> rw [e] <;> rfl

theorem functionFlags_deviceOnly (pd v h : Bool) (s : State) : DeviceOnly s (functionFlags pd v h s) := rfl

theorem normalMode_deviceOnly (s : State) : DeviceOnly s (normalMode s) := by
  unfold normalMode
  split <;> rfl

theorem storeData_deviceOnly (d : Byte) (s : State) : DeviceOnly s (storeData d s) := rfl

/-- A byte decoded in the basic set is a Function Set, a column or a bank address, the display mode, or leaves nothing
known of the device. -/
theorem basicCommand_cases (b : Byte) (s : State) :
    (∃ pd v h, basicCommand b s = functionFlags pd v h s) ∨ (∃ v, basicCommand b s = columnOrVop v s) ∨
      (∃ y, basicCommand b s = bankAddress y s) ∨ basicCommand b s = normalMode s ∨
      basicCommand b s = loseDevice s := by
  unfold basicCommand
  split
  · exact .inl ⟨_, _, _, rfl⟩
  · split
    · exact .inr (.inl ⟨_, rfl⟩)
    · split
      · exact .inr (.inr (.inl ⟨_, rfl⟩))
      · split
        · exact .inr (.inr (.inr (.inl rfl)))
        · exact .inr (.inr (.inr (.inr rfl)))

theorem basicCommand_deviceOnly (b : Byte) (s : State) : DeviceOnly s (basicCommand b s) := by
  rcases basicCommand_cases b s with ⟨_, _, _, e⟩ | ⟨v, e⟩ | ⟨y, e⟩ | e | e <;> rw [e]
  · exact functionFlags_deviceOnly ..
  · exact columnOrVop_deviceOnly v s
  · exact bankAddress_deviceOnly y s
  · exact normalMode_deviceOnly s
  · exact loseDevice_deviceOnly s

theorem extendedCommand_deviceOnly (b : Byte) (s : State) : DeviceOnly s (extendedCommand b s) := by
  unfold extendedCommand
  split
  · exact functionFlags_deviceOnly ..
  · split
    · exact columnOrVop_deviceOnly ..
    · exact loseDevice_deviceOnly s

/-- A bank frame's byte `01yyyyyy` is a bank address (log 41). -/
theorem unlistedCommand_bank {w : WireByte} {s : State} (hf : w.frame = .setY) (hb : w.byte &&& 0xC0 = 0x40) :
    unlistedCommand w s = bankAddress (w.byte &&& 0x3F).toNat s := if_pos ⟨hf, hb⟩

theorem unlistedCommand_deviceOnly (w : WireByte) (s : State) : DeviceOnly s (unlistedCommand w s) := by
  unfold unlistedCommand
  split
  · exact bankAddress_deviceOnly ..
  · split
    · exact extendedCommand_deviceOnly ..
    · exact basicCommand_deviceOnly ..

/-- A command byte that is no row of the table answers a next state that differs in the device alone. -/
theorem execUnlisted_deviceOnly (w : WireByte) (s : State) : ∃ t, execUnlisted w s = .next t ∧ DeviceOnly s t :=
  ⟨_, rfl, deviceTakes_deviceOnly (unlistedCommand_deviceOnly w) s⟩

/-- In the extended set a temperature or bias byte is recorded. -/
theorem analogueSetting_extended {b : Byte} {store : Device → Device} {s : State} (h : s.dev.h = true) :
    analogueSetting b store s = setDevice (store s.dev) s := by
  simp [analogueSetting, h]

/-- In the basic set it is the command its bits say. -/
theorem analogueSetting_basic {b : Byte} {store : Device → Device} {s : State} (h : s.dev.h = false) :
    analogueSetting b store s = basicCommand b s := by
  simp [analogueSetting, h]

theorem analogueSetting_deviceOnly (b : Byte) (store : Device → Device) (s : State) :
    DeviceOnly s (analogueSetting b store s) := by
  cases h : s.dev.h
  · rw [analogueSetting_basic h]; exact basicCommand_deviceOnly b s
  · rw [analogueSetting_extended h]; exact setDevice_deviceOnly _ s

/-- The cell the cursor stands at is a cell of the DDRAM. -/
theorem cursorAddress_lt (col : Fin 84) (bank : Fin 6) : cursorAddress col bank < Config.bufSize := by
  unfold cursorAddress Config.bufSize
  omega

/-- In horizontal addressing the cell advances by one, modulo 504 (R60). -/
theorem cursorAddress_horizontalStep (col : Fin 84) (bank : Fin 6) :
    cursorAddress (horizontalStep col bank).1 (horizontalStep col bank).2 = (cursorAddress col bank + 1) % 504 := by
  revert col bank
  decide

/-- An instruction the device executes answers a next state that differs in the device alone. -/
theorem exec_deviceOnly {i : Instr} {s : State}
    (h : match i with
      | .functionSet _ _ _ => True
      | .temp _ => True
      | .bias _ => True
      | .setVop _ => True
      | .setX _ => True
      | .setY _ => True
      | .displayNormal => True
      | .dataByte _ => True
      | _ => False) :
    ∃ t, exec i s = .next t ∧ DeviceOnly s t := by
  cases i with
  | functionSet pd v ext => exact ⟨_, rfl, deviceTakes_deviceOnly (functionFlags_deviceOnly pd v ext) s⟩
  | temp t => exact ⟨_, rfl, deviceTakes_deviceOnly (analogueSetting_deviceOnly t _) s⟩
  | bias b => exact ⟨_, rfl, deviceTakes_deviceOnly (analogueSetting_deviceOnly b _) s⟩
  | setVop v => exact ⟨_, rfl, deviceTakes_deviceOnly (columnOrVop_deviceOnly v) s⟩
  | setX x => exact ⟨_, rfl, deviceTakes_deviceOnly (columnOrVop_deviceOnly x) s⟩
  | setY y => exact ⟨_, rfl, deviceTakes_deviceOnly (bankAddress_deviceOnly y.toNat) s⟩
  | displayNormal => exact ⟨_, rfl, deviceTakes_deviceOnly normalMode_deviceOnly s⟩
  | dataByte d => exact ⟨_, rfl, deviceTakes_deviceOnly (storeData_deviceOnly d) s⟩
  | _ => exact h.elim

end Sys2Proof.Machine
end

