-- ==== Sys2Proof/Laws/Memory.lean ====
section
/-! SUPPORT. The laws of the two memories: a read after a write, and that every operation keeps the canonical form. -/

namespace Sys2Proof.Machine

theorem Mem.find_put (m : Mem) (a : Nat) (v : Byte) (b : Nat) :
    Mem.find (Mem.put m a v) b = if b = a then some v else Mem.find m b := by
  induction m with
  | nil => simp [Mem.put, Mem.find, eq_comm]
  | cons c rest ih =>
    obtain ⟨k, w⟩ := c
    unfold Mem.put
    rcases Nat.lt_trichotomy a k with h | h | h
    · rw [if_pos h]
      show (if a = b then _ else _) = _
      by_cases hb : a = b
      · rw [if_pos hb, if_pos hb.symm]
      · rw [if_neg hb, if_neg (Ne.symm hb)]
    · subst h
      rw [if_neg (lt_irrefl a), if_pos rfl]
      show (if a = b then _ else _) = _
      by_cases hb : a = b
      · rw [if_pos hb, if_pos hb.symm]
      · rw [if_neg hb, if_neg (Ne.symm hb)]
        exact (if_neg hb).symm
    · rw [if_neg (by omega), if_neg (by omega)]
      show (if k = b then _ else Mem.find (Mem.put rest a v) b) = if b = a then _ else if k = b then _ else _
      by_cases hb : k = b
      · rw [if_pos hb, if_neg (by omega), if_pos hb]
      · rw [if_neg hb, if_neg hb, ih]

theorem Mem.find_drop (m : Mem) (a b : Nat) :
    Mem.find (Mem.drop m a) b = if b = a then none else Mem.find m b := by
  induction m with
  | nil => simp [Mem.drop, Mem.find]
  | cons c rest ih =>
    obtain ⟨k, w⟩ := c
    unfold Mem.drop
    by_cases h : k = a
    · rw [if_pos h, ih]
      by_cases hb : b = a
      · rw [if_pos hb, if_pos hb]
      · rw [if_neg hb, if_neg hb]
        exact (if_neg (by omega)).symm
    · rw [if_neg h]
      show (if k = b then _ else Mem.find (Mem.drop rest a) b) = if b = a then _ else if k = b then _ else _
      by_cases hb : k = b
      · rw [if_pos hb, if_neg (by omega), if_pos hb]
      · rw [if_neg hb, if_neg hb, ih]

theorem Mem.mem_put {m : Mem} {a : Nat} {v : Byte} {c : Host.Cell} (h : c ∈ Mem.put m a v) :
    c = (a, v) ∨ c ∈ m := by
  induction m with
  | nil => exact .inl (by simpa [Mem.put] using h)
  | cons d rest ih =>
    obtain ⟨k, w⟩ := d
    unfold Mem.put at h
    split at h
    · simpa using h
    · split at h
      · rcases List.mem_cons.1 h with h | h
        · exact .inl h
        · exact .inr (List.mem_cons_of_mem _ h)
      · rcases List.mem_cons.1 h with h | h
        · exact .inr (h ▸ List.mem_cons_self)
        · exact (ih h).imp_right (List.mem_cons_of_mem _)

theorem Mem.mem_drop {m : Mem} {a : Nat} {c : Host.Cell} (h : c ∈ Mem.drop m a) : c ∈ m := by
  induction m with
  | nil => exact h
  | cons d rest ih =>
    obtain ⟨k, w⟩ := d
    unfold Mem.drop at h
    split at h
    · exact List.mem_cons_of_mem _ (ih h)
    · rcases List.mem_cons.1 h with h | h
      · exact h ▸ List.mem_cons_self
      · exact List.mem_cons_of_mem _ (ih h)

theorem Mem.sorted_put {m : Mem} {a : Nat} (v : Byte) (h : Mem.sorted m) (ha : a < Config.bufSize) :
    Mem.sorted (Mem.put m a v) := by
  refine ⟨?_, fun c hc => (Mem.mem_put hc).elim (fun e => e ▸ ha) (h.2 c)⟩
  have hs := h.1
  clear h
  induction m with
  | nil => simp [Mem.put]
  | cons d rest ih =>
    obtain ⟨k, w⟩ := d
    obtain ⟨hk, hr⟩ := List.pairwise_cons.1 hs
    unfold Mem.put
    by_cases h₁ : a < k
    · rw [if_pos h₁]
      refine List.pairwise_cons.2 ⟨fun c hc => ?_, hs⟩
      rcases List.mem_cons.1 hc with hc | hc
      · exact hc ▸ h₁
      · exact h₁.trans (hk c hc)
    · rw [if_neg h₁]
      by_cases h₂ : a = k
      · rw [if_pos h₂]
        exact List.pairwise_cons.2 ⟨fun c hc => h₂ ▸ hk c hc, hr⟩
      · rw [if_neg h₂]
        refine List.pairwise_cons.2 ⟨fun c hc => ?_, ih hr⟩
        rcases Mem.mem_put hc with hc | hc
        · subst hc
          show k < a
          omega
        · exact hk c hc

theorem Mem.sorted_drop {m : Mem} {a : Nat} (h : Mem.sorted m) : Mem.sorted (Mem.drop m a) := by
  refine ⟨?_, fun c hc => h.2 c (Mem.mem_drop hc)⟩
  have hs := h.1
  clear h
  induction m with
  | nil => exact hs
  | cons d rest ih =>
    obtain ⟨k, w⟩ := d
    obtain ⟨hk, hr⟩ := List.pairwise_cons.1 hs
    unfold Mem.drop
    split
    · exact ih hr
    · exact List.pairwise_cons.2 ⟨fun c hc => hk c (Mem.mem_drop hc), ih hr⟩

/-! ## `FB` -/

/-- A read after a write: the byte written at its index, every other byte as before. -/
theorem fbRead_fbWrite (m : Mem) (i : Nat) (v : Byte) (j : Nat) :
    fbRead (fbWrite m i v) j = if j = i then v else fbRead m j := by
  unfold fbRead fbWrite
  by_cases h : v = fbUnlisted
  · rw [if_pos h, Mem.find_drop]
    split
    · simp [h]
    · rfl
  · rw [if_neg h, Mem.find_put]
    split <;> rfl

theorem Mem.find_of_mem_range (n a : Nat) (f : Nat → Byte) :
    Mem.find ((List.range n).map (fun i => (i, f i))) a = if a < n then some (f a) else none := by
  have key : ∀ (k : Nat), Mem.find ((List.range' k n).map (fun i => (i, f i))) a =
      if k ≤ a ∧ a < k + n then some (f a) else none := by
    induction n with
    | zero => intro k; simp [Mem.find]
    | succ n ih =>
      intro k
      rw [List.range'_succ, List.map_cons]
      unfold Mem.find
      rw [ih (k + 1)]
      by_cases h : k = a
      · subst h; simp
      · rw [if_neg h]
        by_cases h₂ : k + 1 ≤ a ∧ a < k + 1 + n
        · rw [if_pos h₂, if_pos (by omega)]
        · rw [if_neg h₂, if_neg (by omega)]
  have := key 0
  rw [List.range_eq_range', this]
  simp

/-- After a fill every byte of `FB` is the fill byte. -/
theorem fbRead_fbFill (v : Byte) (i : Nat) (h : i < Config.bufSize) : fbRead (fbFill v) i = v := by
  unfold fbRead fbFill
  by_cases hv : v = fbUnlisted
  · simp [hv, Mem.find]
  · rw [if_neg hv, Mem.find_of_mem_range Config.bufSize i (fun _ => v), if_pos h]
    rfl

theorem wf_fbWrite {m : Mem} {i : Nat} (v : Byte) (h : Mem.wf m) (hi : i < Config.bufSize) :
    Mem.wf (fbWrite m i v) := by
  unfold fbWrite
  split
  · exact ⟨Mem.sorted_drop h.1, fun c hc => h.2 c (Mem.mem_drop hc)⟩
  · next hv =>
    exact ⟨Mem.sorted_put v h.1 hi, fun c hc => (Mem.mem_put hc).elim (fun e => e ▸ hv) (h.2 c)⟩

theorem wf_fbFill (v : Byte) : Mem.wf (fbFill v) := by
  unfold fbFill
  by_cases hv : v = fbUnlisted
  · rw [if_pos hv]
    exact ⟨⟨List.Pairwise.nil, by simp⟩, by simp⟩
  · rw [if_neg hv]
    refine ⟨⟨?_, ?_⟩, ?_⟩
    · rw [List.pairwise_map]
      exact List.pairwise_lt_range
    · intro c hc
      obtain ⟨i, hi, rfl⟩ := List.mem_map.1 hc
      exact List.mem_range.1 hi
    · intro c hc
      obtain ⟨i, -, rfl⟩ := List.mem_map.1 hc
      exact hv

/-! ## DDRAM -/

/-- A data byte is in its cell, every other cell as before. -/
theorem ddramRead_ddramWrite (m : Mem) (a : Nat) (v : Byte) (b : Nat) :
    ddramRead (ddramWrite m a v) b = if b = a then some v else ddramRead m b :=
  Mem.find_put m a v b

/-- Writing a byte that is listed changes no address. -/
theorem Mem.addresses_put {m : Mem} {a : Nat} (v : Byte) (hs : m.Pairwise (fun p q => p.1 < q.1))
    (ha : a ∈ m.map Prod.fst) : (Mem.put m a v).map Prod.fst = m.map Prod.fst := by
  induction m with
  | nil => simp at ha
  | cons d rest ih =>
    obtain ⟨k, w⟩ := d
    obtain ⟨hk, hr⟩ := List.pairwise_cons.1 hs
    rcases List.mem_cons.1 ha with h | h
    · have h : a = k := h
      simp [Mem.put, h]
    · obtain ⟨c, hc, hca⟩ := List.mem_map.1 h
      have : k < a := hca ▸ hk c hc
      simp [Mem.put, show ¬a < k by omega, show ¬a = k by omega, ih hr h]

theorem Mem.pairwise_of_full {m : Mem} (h : Mem.full m) : m.Pairwise (fun p q => p.1 < q.1) := by
  have := List.pairwise_lt_range (n := Config.bufSize)
  rw [← h, List.pairwise_map] at this
  exact this

/-- The DDRAM keeps its 504 cells. -/
theorem full_ddramWrite {m : Mem} {a : Nat} (v : Byte) (h : Mem.full m) (ha : a < Config.bufSize) :
    Mem.full (ddramWrite m a v) := by
  have hm : a ∈ m.map Prod.fst := h ▸ List.mem_range.2 ha
  exact (Mem.addresses_put v (Mem.pairwise_of_full h) hm).trans h

/-- A DDRAM of which nothing is known has its 504 cells. -/
theorem full_arbitrary (k : Nat) : Mem.full (Mem.arbitrary k) := by
  simp [Mem.full, Mem.arbitrary, Function.comp_def]

/-- Each of its cells holds a free byte. -/
theorem ddramRead_arbitrary (k : Nat) {a : Nat} (h : a < Config.bufSize) :
    ddramRead (Mem.arbitrary k) a = some (Config.freeDdram k a) := by
  rw [ddramRead, Mem.arbitrary, Mem.find_of_mem_range, if_pos h]

end Sys2Proof.Machine
end

