-- ==== Sys2Proof/Laws/Ops.lean ====
section
/-! SUPPORT. What each shared operation of Machine/Ops.lean can do, said once. -/

namespace Sys2Proof.Machine

/-! ## Going on -/

@[simp] theorem andThen_going (s : State) (f : State → Run) : (Run.going s).andThen f = f s := rfl
@[simp] theorem andThen_raised (k : ErrKind) (e : ErrVal) (s : State) (f : State → Run) :
    (Run.raised k e s).andThen f = .raised k e s := rfl
@[simp] theorem andThen_abandoned (s : State) (f : State → Run) : (Run.abandoned s).andThen f = .abandoned s := rfl
@[simp] theorem andThen_waiting (s : State) (f : State → Run) : (Run.waiting s).andThen f = .waiting s := rfl

theorem andThen_assoc (r : Run) (f g : State → Run) :
    (r.andThen f).andThen g = r.andThen (fun s => (f s).andThen g) := by
  cases r <;> rfl

@[simp] theorem conclude_going (onOk : Ghosts → Ghosts) (s : State) : conclude onOk (.going s) = complete onOk s := rfl
@[simp] theorem conclude_raised (onOk : Ghosts → Ghosts) (k : ErrKind) (e : ErrVal) (s : State) :
    conclude onOk (.raised k e s) = abort k e s := rfl
@[simp] theorem conclude_abandoned (onOk : Ghosts → Ghosts) (s : State) : conclude onOk (.abandoned s) = abandon s := rfl
@[simp] theorem conclude_waiting (onOk : Ghosts → Ghosts) (s : State) : conclude onOk (.waiting s) = s := rfl

/-- With no plan to abandon it, an operation goes on. -/
@[simp] theorem goOn_of_not_abandoned {s : State} (h : s.abandonAt = none) : goOn s = .going s := by
  simp [goOn, abandonDue, h]

/-- Going on is going on or being abandoned, with nothing changed. -/
theorem goOn_cases (s : State) : goOn s = .going s ∨ goOn s = .abandoned s := by
  unfold goOn
  split
  · exact .inr rfl
  · exact .inl rfl

/-! ## Capability calls -/

theorem takeAnswer_of_cons {s : State} {a : Answer} {rest : List Answer} (h : s.answers = a :: rest) :
    takeAnswer s = (a, { s with answers := rest }) := by
  simp [takeAnswer, h]

/-- Taking an answer changes the script and the count of free values alone. -/
theorem takeAnswer_snd (s : State) :
    ∃ as n, (takeAnswer s).2 = { s with answers := as, draws := n } := by
  unfold takeAnswer
  split
  · exact ⟨_, s.draws, rfl⟩
  · exact ⟨s.answers, _, rfl⟩

/-- Everything a capability call can do: it enters the trace; `ok`, its whole effect takes place and the operation goes
on; else a part of its effect takes place, and the operation is aborted or waits. -/
theorem capabilityCall_cases (ev : Event) (kind : ErrKind) (units : Nat) (effect : Nat → State → State) (s : State) :
    ∃ as n, let t : State := { record ev s with answers := as, draws := n }
      capabilityCall ev kind units effect s = goOn (advance (effect units t)) ∨
        (∃ e d, capabilityCall ev kind units effect s = .raised kind e (effect (min d units) t)) ∨
        (∃ d, capabilityCall ev kind units effect s = .waiting (effect (min d units) t)) := by
  obtain ⟨as, n, h⟩ := takeAnswer_snd (record ev s)
  refine ⟨as, n, ?_⟩
  unfold capabilityCall
  rcases hp : takeAnswer (record ev s) with ⟨a, t⟩
  rw [hp] at h
  subst h
  cases a with
  | ok => exact .inl rfl
  | fail e d => exact .inr (.inl ⟨e, d, rfl⟩)
  | never d => exact .inr (.inr ⟨d, rfl⟩)

theorem capabilityCall_ok {ev : Event} {kind : ErrKind} {units : Nat} {effect : Nat → State → State} {s : State}
    {rest : List Answer} (h : s.answers = .ok :: rest) :
    capabilityCall ev kind units effect s =
      goOn (advance (effect units { record ev s with answers := rest })) := by
  simp [capabilityCall, takeAnswer_of_cons (s := record ev s) (a := .ok) (rest := rest) h]

theorem capabilityCall_fail {ev : Event} {kind : ErrKind} {units : Nat} {effect : Nat → State → State} {s : State}
    {e : ErrVal} {d : Nat} {rest : List Answer} (h : s.answers = .fail e d :: rest) :
    capabilityCall ev kind units effect s =
      .raised kind e (effect (min d units) { record ev s with answers := rest }) := by
  simp [capabilityCall, takeAnswer_of_cons (s := record ev s) (a := .fail e d) (rest := rest) h]

theorem capabilityCall_never {ev : Event} {kind : ErrKind} {units : Nat} {effect : Nat → State → State} {s : State}
    {d : Nat} {rest : List Answer} (h : s.answers = .never d :: rest) :
    capabilityCall ev kind units effect s =
      .waiting (effect (min d units) { record ev s with answers := rest }) := by
  simp [capabilityCall, takeAnswer_of_cons (s := record ev s) (a := .never d) (rest := rest) h]

/-! ## What holds at every point of an operation -/

/-- A property holds of the state an operation has come to. -/
def Run.Holds (P : State → Prop) (r : Run) : Prop :=
  match r with
  | .going s => P s
  | .raised _ _ s => P s
  | .abandoned s => P s
  | .waiting s => P s

/-- The property passes through the sequencing of steps. -/
theorem Run.Holds.andThen {P : State → Prop} {r : Run} {f : State → Run} (h : r.Holds P)
    (hf : ∀ s, P s → (f s).Holds P) : (r.andThen f).Holds P := by
  cases r with
  | going s => exact hf s h
  | raised k e s => exact h
  | abandoned s => exact h
  | waiting s => exact h

theorem goOn_holds {P : State → Prop} {s : State} (h : P s) : (goOn s).Holds P := by
  rcases goOn_cases s with e | e <;> rw [e] <;> exact h

/-- A property that the record, an answer, the effect and the sequencer's advance keep holds after a capability call. -/
theorem capabilityCall_holds {P : State → Prop} {ev : Event} {kind : ErrKind} {units : Nat}
    {effect : Nat → State → State} {s : State}
    (hr : ∀ as n, P { record ev s with answers := as, draws := n })
    (he : ∀ n t, P t → P (effect n t)) (ha : ∀ t, P t → P (advance t)) :
    (capabilityCall ev kind units effect s).Holds P := by
  obtain ⟨as, n, h⟩ := capabilityCall_cases ev kind units effect s
  rcases h with h | ⟨e, d, h⟩ | ⟨d, h⟩ <;> rw [h]
  · exact goOn_holds (ha _ (he _ _ (hr as n)))
  · exact he _ _ (hr as n)
  · exact he _ _ (hr as n)

/-- A Controller operation always answers a next state. -/
theorem operation_next (i : Instr) (onOk : Ghosts → Ghosts) (steps : State → Run) (s : State) :
    operation i onOk steps s = .next (conclude onOk ((goOn (accept i s)).andThen steps)) := rfl

/-! ## Calls and frames when the environment answers `ok`

Each lemma takes its premises in a form that simp discharges of a state written out: the next answers, and no plan to
abandon. -/

/-- The next `n` answers are `ok`. -/
def startsOk (n : Nat) (answers : List Answer) : Bool :=
  match n, answers with
  | 0, _ => true
  | n + 1, .ok :: rest => startsOk n rest
  | _ + 1, .fail _ _ :: _ => false
  | _ + 1, .never _ :: _ => false
  | _ + 1, [] => false

@[simp] theorem startsOk_one (rest : List Answer) : startsOk 1 (.ok :: rest) = true := by
  rw [startsOk, startsOk]

@[simp] theorem startsOk_two (rest : List Answer) : startsOk 2 (.ok :: .ok :: rest) = true := by
  rw [startsOk, startsOk_one]

theorem startsOk_replicate (n : Nat) (rest : List Answer) : startsOk n (List.replicate n .ok ++ rest) = true := by
  induction n with
  | zero => simp [startsOk]
  | succ n ih => simpa [List.replicate_succ, startsOk] using ih

theorem answers_of_startsOk {n : Nat} {answers : List Answer} (h : startsOk n answers = true) :
    answers = List.replicate n .ok ++ answers.drop n := by
  induction n generalizing answers with
  | zero => simp
  | succ n ih =>
    rcases answers with _ | ⟨_ | _ | _, rest⟩
    · simp [startsOk] at h
    · simpa [List.replicate_succ] using ih (by simpa [startsOk] using h)
    · simp [startsOk] at h
    · simp [startsOk] at h

theorem dcSet_ok {level : Level} {s : State} (h : startsOk 1 s.answers = true) (ha : s.abandonAt = none) :
    dcSet level s =
      .going { s with trace := s.trace ++ [.dc level], answers := s.answers.drop 1, dcPin := level,
                      seq := s.seq.map Position.next } := by
  rw [dcSet, capabilityCall_ok (answers_of_startsOk h), goOn_of_not_abandoned (by simpa [driveDc] using ha)]
  rfl

theorem busWrite_ok {frame : Frame} {run : List Byte} {s : State} (h : startsOk 1 s.answers = true)
    (ha : s.abandonAt = none) :
    busWrite frame run s =
      .going { s with trace := s.trace ++ [.bus run], answers := s.answers.drop 1, seq := s.seq.map Position.next,
                      wire := s.wire ++ run.map (fun b => { dc := s.dcPin, byte := b, frame := frame }) } := by
  rw [busWrite, capabilityCall_ok (answers_of_startsOk h), goOn_of_not_abandoned (by simpa using ha)]
  simp [deliver, advance, record]

/-- A write of the reset line that goes through (R163). -/
theorem rstSet_ok {level : Level} {s : State} (h : startsOk 1 s.answers = true) (ha : s.abandonAt = none) :
    rstSet level s =
      .going { s with trace := s.trace ++ [.rst level], answers := s.answers.drop 1, rstPin := level,
                      seq := s.seq.map Position.next,
                      dev := if level = s.cfg.rstActive then Device.arbitrary s.draws else s.dev,
                      draws := if level = s.cfg.rstActive then s.draws + 1 else s.draws } := by
  rw [rstSet, capabilityCall_ok (answers_of_startsOk h), goOn_of_not_abandoned]
  · by_cases hl : level = s.cfg.rstActive <;> simp [driveRst, hl, advance, record, loseDevice]
  · by_cases hl : level = s.cfg.rstActive <;> simp [driveRst, hl, ha]

/-- Everything a `Delay` can do: it enters the trace, and it returns, or never does. -/
theorem delay_cases (us : BitVec 32) (s : State) :
    ∃ as n, let t : State := { record (.dly us) s with answers := as, draws := n }
      delay us s = goOn (advance t) ∨ delay us s = .waiting t := by
  obtain ⟨as, n, h⟩ := takeAnswer_snd (record (.dly us) s)
  refine ⟨as, n, ?_⟩
  unfold delay
  rcases hp : takeAnswer (record (.dly us) s) with ⟨a, t⟩
  rw [hp] at h
  subst h
  cases a with
  | ok => exact .inl rfl
  | fail e d => exact .inl rfl
  | never d => exact .inr rfl

theorem delay_ok {us : BitVec 32} {s : State} (h : startsOk 1 s.answers = true) (ha : s.abandonAt = none) :
    delay us s = .going { s with trace := s.trace ++ [.dly us], answers := s.answers.drop 1,
                                 seq := s.seq.map Position.next } := by
  have h' := answers_of_startsOk h
  rw [delay, takeAnswer_of_cons (s := record (.dly us) s) h']
  exact goOn_of_not_abandoned ha

theorem delay_never {us : BitVec 32} {s : State} {d : Nat} {rest : List Answer} (h : s.answers = .never d :: rest) :
    delay us s = .waiting { record (.dly us) s with answers := rest } := by
  rw [delay, takeAnswer_of_cons (s := record (.dly us) s) h]

/-- A command frame that goes through (R166). -/
theorem cmdFrame_ok {frame : Frame} {b : Byte} {s : State} (h : startsOk 2 s.answers = true)
    (ha : s.abandonAt = none) :
    cmdFrame frame b s =
      .going { s with trace := s.trace ++ [.dc .low, .bus [b]], answers := s.answers.drop 2, dcPin := .low,
                      seq := s.seq.map (fun k => k.next.next),
                      wire := s.wire ++ [{ dc := .low, byte := b, frame := frame }] } := by
  have h' := answers_of_startsOk h
  rw [cmdFrame, dcSet_ok (by rw [h']; rfl) ha, andThen_going, busWrite_ok]
  · simp [Option.map_map, Function.comp_def]
  · show startsOk 1 (s.answers.drop 1) = true
    rw [h']; rfl
  · exact ha

/-- A data frame that goes through (R167). -/
theorem dataFrame_ok {run : List Byte} {s : State} (h : startsOk 2 s.answers = true) (ha : s.abandonAt = none) :
    dataFrame run s =
      .going { s with trace := s.trace ++ [.dc .high, .bus run], answers := s.answers.drop 2, dcPin := .high,
                      seq := s.seq.map (fun k => k.next.next),
                      wire := s.wire ++ run.map (fun b => { dc := .high, byte := b, frame := .data }) } := by
  have h' := answers_of_startsOk h
  rw [dataFrame, dcSet_ok (by rw [h']; rfl) ha, andThen_going, busWrite_ok]
  · simp [Option.map_map, Function.comp_def]
  · show startsOk 1 (s.answers.drop 1) = true
    rw [h']; rfl
  · exact ha

/-- `SetFunc` that goes through (R188): `FUNC` first, then its frame. -/
theorem sendFunc_ok {v : Byte} {s : State} (h : startsOk 2 s.answers = true) (ha : s.abandonAt = none) :
    sendFunc v s =
      .going { s with func := v, trace := s.trace ++ [.dc .low, .bus [v]], answers := s.answers.drop 2, dcPin := .low,
                      seq := s.seq.map (fun k => k.next.next),
                      wire := s.wire ++ [{ dc := .low, byte := v, frame := .functionSet }] } := by
  rw [sendFunc, cmdFrame_ok (s := setFunc v s) h ha]
  rfl

/-- Block reset leaves the machine after reset, with its parameters, the requests and the answers still to come, and a fresh
draw of free values for the pins and the device (R36). -/
theorem blockReset_eq (s : State) :
    blockReset s = { State.reset with
      cfg := s.cfg, func := s.cfg.funcReset, pending := s.pending, answers := s.answers,
      dcPin := Config.dcAtReset s.draws, rstPin := Config.rstAtReset s.draws, dev := Device.arbitrary s.draws,
      draws := s.draws + 1 } := rfl

/-- A Controller operation that no one abandons is its steps, concluded. -/
theorem operation_of_not_abandoned {i : Instr} {onOk : Ghosts → Ghosts} {steps : State → Run} {s : State}
    (ha : s.abandonAt = none) : operation i onOk steps s = .next (conclude onOk (steps (accept i s))) := by
  rw [operation_next, goOn_of_not_abandoned (show (accept i s).abandonAt = none from ha), andThen_going]

end Sys2Proof.Machine
end

