-- ==== Sys2Proof/Laws/PerInstr.lean ====
section
/-! SUPPORT. A statement made for every instruction of the syntax, and its lemma for each: the encoding of a well-formed
instruction, on a port numbered as R91 numbers it, lies in the instruction's row of spec/opcode_table.json. -/

namespace Sys2Proof.Laws.RowPattern

/-- The word of a well-formed instruction has the fixed bits of its row, in the row's space. -/
def Statement (i : Instr) : Prop :=
  i.wellFormed Params.default = true → (rowOf i).admits (encode Params.default i) = true

theorem fbNew : Statement .fbNew := fun _ => by decide
theorem fbSetPixel (x y : Int) (on : Bool) : Statement (.fbSetPixel x y on) := fun _ => by
  simp [Row.admits, rowOf, encode, Coded.space, Coded.tableWord, Request.plain, portNumber_default]
theorem fbClear (on : Bool) : Statement (.fbClear on) := fun _ => by
  simp [Row.admits, rowOf, encode, Coded.space, Coded.tableWord, Request.plain, portNumber_default]
theorem fbBytes : Statement .fbBytes := fun _ => by decide
theorem lcdReset : Statement .lcdReset := fun _ => by decide
theorem lcdInit : Statement .lcdInit := fun _ => by decide
theorem lcdAddressingHorizontal (h : Bool) : Statement (.lcdAddressingHorizontal h) := fun _ => by
  simp [Row.admits, rowOf, encode, Coded.space, Coded.tableWord, Request.plain, portNumber_default]
theorem lcdContrast (v b t : Byte) : Statement (.lcdContrast v b t) := fun _ => by
  simp [Row.admits, rowOf, encode, Coded.space, Coded.tableWord, Request.plain, portNumber_default]
theorem lcdPosition (x y : Byte) : Statement (.lcdPosition x y) := fun _ => by
  simp [Row.admits, rowOf, encode, Coded.space, Coded.tableWord, Request.plain, portNumber_default]
theorem lcdClear : Statement .lcdClear := fun _ => by decide
theorem lcdData (run : List Byte) : Statement (.lcdData run) := fun _ => by
  simp [Row.admits, rowOf, encode, Coded.space, Coded.tableWord, Request.plain, portNumber_default]
theorem reserved0xB : Statement .reserved0xB := fun _ => by decide
theorem reserved0xCto0xF (low : BitVec 2) : Statement (.reserved0xCto0xF low) := fun _ => by
  revert low; decide
theorem functionSet (pd v h : Bool) : Statement (.functionSet pd v h) := fun _ => by
  revert pd v h; decide
theorem temp (t : Byte) : Statement (.temp t) := fun _ => by
  simp [Row.admits, rowOf, encode, Coded.space, Coded.tableWord]
theorem bias (b : Byte) : Statement (.bias b) := fun _ => by
  simp [Row.admits, rowOf, encode, Coded.space, Coded.tableWord]
theorem setVop (v : BitVec 7) : Statement (.setVop v) := fun _ => by
  revert v; decide
theorem setX (x : BitVec 7) : Statement (.setX x) := fun _ => by
  revert x; decide
theorem setY (y : BitVec 3) : Statement (.setY y) := fun _ => by
  revert y; decide
theorem displayNormal : Statement .displayNormal := fun _ => by decide
theorem dataByte (d : Byte) : Statement (.dataByte d) := fun _ => by
  simp [Row.admits, rowOf, encode, Coded.space, Coded.tableWord]

end Sys2Proof.Laws.RowPattern
end

