-- ==== Sys2Proof/Laws/Step.lean ====
section
/-! SUPPORT. Everything a step can do, and everything a run of the device can do, said once. -/

namespace Sys2Proof.Machine

theorem step_of_wire {s : State} {w : WireByte} {rest : List WireByte} {i : Instr} (h : s.wire = w :: rest)
    (hd : decodeWire w = .ok i) : step s = exec i (takeByte rest s) := by
  simp [step, fetch, h, hd]

theorem step_of_unlisted {s : State} {w : WireByte} {rest : List WireByte} {e : Reject} (h : s.wire = w :: rest)
    (hd : decodeWire w = .error e) : step s = execUnlisted w (takeByte rest s) := by
  simp [step, fetch, h, hd]

theorem step_of_request {s : State} {p : Pending} {rest : List Pending} (hw : s.wire = []) (hs : s.seq = none)
    (hp : s.pending = p :: rest) : step s = exec (decodeRequest s.cfg p.request) (takeRequest p rest s) := by
  simp [step, fetch, hw, hs, hp]

theorem step_of_idle {s : State} (hw : s.wire = []) (hs : s.seq = none) (hp : s.pending = []) : step s = .next s := by
  simp [step, fetch, hw, hs, hp]

/-- Everything a step that answers a next state can be: the device takes a byte, of the table or not, the block carries out
a request, or nothing happens. -/
theorem step_next_cases {s t : State} (h : step s = .next t) :
    (∃ w rest i, s.wire = w :: rest ∧ decodeWire w = .ok i ∧ exec i (takeByte rest s) = .next t) ∨
      (∃ w rest e, s.wire = w :: rest ∧ decodeWire w = .error e ∧ execUnlisted w (takeByte rest s) = .next t) ∨
      (∃ p rest, s.wire = [] ∧ s.seq = none ∧ s.pending = p :: rest ∧
        exec (decodeRequest s.cfg p.request) (takeRequest p rest s) = .next t) ∨
      (s.wire = [] ∧ s.seq = none ∧ s.pending = [] ∧ t = s) := by
  rcases hw : s.wire with _ | ⟨w, rest⟩
  · rcases hs : s.seq with _ | k
    · rcases hp : s.pending with _ | ⟨p, rest⟩
      · rw [step_of_idle hw hs hp] at h
        exact .inr (.inr (.inr ⟨rfl, rfl, rfl, (Host.Outcome.next.inj h).symm⟩))
      · rw [step_of_request hw hs hp] at h
        exact .inr (.inr (.inl ⟨p, rest, rfl, rfl, rfl, h⟩))
    · simp [step, fetch, hw, hs] at h
  · cases hd : decodeWire w with
    | error e => exact .inr (.inl ⟨w, rest, e, rfl, hd, by rwa [step_of_unlisted hw hd] at h⟩)
    | ok i => exact .inl ⟨w, rest, i, rfl, hd, by rwa [step_of_wire hw hd] at h⟩

/-- A bus byte decodes to an instruction the device executes. -/
theorem exec_decodeWire {w : WireByte} {i : Instr} (h : decodeWire w = .ok i) (s : State) :
    ∃ t, exec i s = .next t ∧ DeviceOnly s t := by
  obtain ⟨dc, b, f⟩ := w
  apply exec_deviceOnly
  cases dc <;> cases f <;> simp only [decodeWire] at h <;> (try split at h) <;>
    first | (cases h; trivial) | cases h

end Sys2Proof.Machine
end

