-- ==== Sys2Proof/Tests/Slice0.lean ====
section
/-! SUPPORT. Tests: expected results are those of spec/95_test_vectors.md and of the tables of spec/30_encoding.md; then, for
each statement with premises, a state and operands that meet them. -/

namespace Sys2Proof.Tests

open Sys2Proof.Machine Sys2Proof.Safety

/-! ## Well-formed instructions (R26, R92) -/

theorem test_wellFormed_x_too_large : (Instr.fbSetPixel 2147483648 0 true).wellFormed Params.default = false := by decide
theorem test_wellFormed_y_too_small : (Instr.fbSetPixel 0 (-2147483649) true).wellFormed Params.default = false := by decide
theorem test_wellFormed_edges : (Instr.fbSetPixel 2147483647 (-2147483648) true).wellFormed Params.default = true := by decide

/-! ## Decoding, one word of each row written out from the tables (R91, R92, R99 to R104) -/

theorem test_decode_fbNew : decodeRequest Params.default ⟨0b0000, 7, 7, 7, true, [1]⟩ = .fbNew := by decide
theorem test_decode_fbSetPixel : decodeRequest Params.default ⟨0b0001, 83, 47, 9, true, [1]⟩ = .fbSetPixel 83 47 true := by decide
theorem test_decode_fbSetPixel_negative :
    decodeRequest Params.default ⟨0b0001, 0xFFFFFFFF, 0x80000000, 0, false, []⟩ = .fbSetPixel (-1) (-2147483648) false := by decide
theorem test_decode_fbClear : decodeRequest Params.default ⟨0b0010, 7, 7, 7, true, [1]⟩ = .fbClear true := by decide
theorem test_decode_fbBytes : decodeRequest Params.default ⟨0b0011, 7, 7, 7, true, [1]⟩ = .fbBytes := by decide
theorem test_decode_lcdReset : decodeRequest Params.default ⟨0b0100, 7, 7, 7, true, [1]⟩ = .lcdReset := by decide
theorem test_decode_lcdInit : decodeRequest Params.default ⟨0b0101, 7, 7, 7, true, [1]⟩ = .lcdInit := by decide
theorem test_decode_addressing :
    decodeRequest Params.default ⟨0b0110, 7, 7, 7, true, [1]⟩ = .lcdAddressingHorizontal true := by decide
theorem test_decode_contrast :
    decodeRequest Params.default ⟨0b0111, 0x13F, 0x214, 0x06, true, [1]⟩ = .lcdContrast 0x3F 0x14 0x06 := by decide
theorem test_decode_position : decodeRequest Params.default ⟨0b1000, 0x153, 0xFF05, 7, true, [1]⟩ = .lcdPosition 83 5 := by decide
theorem test_decode_lcdClear : decodeRequest Params.default ⟨0b1001, 7, 7, 7, true, [1]⟩ = .lcdClear := by decide
theorem test_decode_data : decodeRequest Params.default ⟨0b1010, 7, 7, 7, true, [0xAA, 0x55]⟩ = .lcdData [0xAA, 0x55] := by decide
theorem test_decode_reserved_B : decodeRequest Params.default ⟨0b1011, 7, 7, 7, true, [1]⟩ = .reserved0xB := by decide
theorem test_decode_reserved_F : decodeRequest Params.default ⟨0b1111, 7, 7, 7, true, [1]⟩ = .reserved0xCto0xF 3 := by decide
theorem test_decode_functionSet :
    decodeWire ⟨.low, 0b00100011, .functionSet⟩ = .ok (.functionSet false true true) := by decide
theorem test_decode_functionSet_pd :
    decodeWire ⟨.low, 0b00100100, .functionSet⟩ = .ok (.functionSet true false false) := by decide
theorem test_decode_temp : decodeWire ⟨.low, 0b00000110, .temp⟩ = .ok (.temp 0x06) := by decide
theorem test_decode_bias : decodeWire ⟨.low, 0b00010100, .bias⟩ = .ok (.bias 0x14) := by decide
theorem test_decode_setVop : decodeWire ⟨.low, 0b10111111, .setVop⟩ = .ok (.setVop 0x3F) := by decide
theorem test_decode_setX : decodeWire ⟨.low, 0b11010011, .setX⟩ = .ok (.setX 83) := by decide
theorem test_decode_setY : decodeWire ⟨.low, 0b01000101, .setY⟩ = .ok (.setY 5) := by decide
theorem test_decode_displayNormal : decodeWire ⟨.low, 0b00001100, .displayNormal⟩ = .ok .displayNormal := by decide
theorem test_decode_dataByte : decodeWire ⟨.high, 0b00001100, .data⟩ = .ok (.dataByte 0x0C) := by decide

/-- Command/data-select alone tells a data byte from a command byte (R98). -/
theorem test_decode_dc_high_is_data : decodeWire ⟨.high, 0x22, .functionSet⟩ = .ok (.dataByte 0x22) := by decide
theorem test_reject_setVop : decodeWire ⟨.low, 0x7F, .setVop⟩ = .error (.notThatCommand .setVop) := by decide
theorem test_reject_setY : decodeWire ⟨.low, 0x48, .setY⟩ = .error (.notThatCommand .setY) := by decide
theorem test_reject_functionSet : decodeWire ⟨.low, 0x28, .functionSet⟩ = .error (.notThatCommand .functionSet) := by
  decide
theorem test_reject_data_as_command : decodeWire ⟨.low, 0, .data⟩ = .error .dataWrittenAsCommand := by decide

theorem test_tableWord_selector : decodeTableWord 8 0x5 = some .lcdInit := by decide
theorem test_tableWord_reserved : decodeTableWord 8 0xB = some .reserved0xB := by decide
theorem test_tableWord_command : decodeTableWord 8 0x23 = some (.functionSet false true true) := by decide
theorem test_tableWord_displayNormal : decodeTableWord 8 0x0C = some .displayNormal := by decide

/-! ## A small machine -/

/-- A device of which everything is known: basic set, horizontal, the cursor at (83, 5), its DDRAM zero. -/
def knownDevice : Device :=
  { pd := false, v := false, h := false, col := 83, bank := 5, ddram := (List.range 504).map (fun a => (a, 0)),
    mode := .other, vop := 0, bias := 0, temp := 0 }

/-- An idle machine with that device out of reset, and these answers to come. -/
def small (answers : List Answer) : State :=
  { State.reset with answers := answers, rstPin := .high, dcPin := .low, dev := knownDevice, draws := 0 }

/-- The state after an instruction. -/
def after (o : Host.Outcome State Fault Refusal) : Option State :=
  match o with
  | .next s => some s
  | .fault _ => none
  | .refused _ => none

/-- Enough answers `ok`, then a failure. -/
def failAt (n : Nat) : List Answer := List.replicate (n - 1) .ok ++ [.fail 7 0]

/-! ## The FrameBuffer (S2 to S4, B1 to B3) -/

theorem test_pixel_origin : (after (exec (.fbSetPixel 0 0 true) (small []))).map State.fb = some [(503, 0x80)] := by
  decide
theorem test_pixel_last : (after (exec (.fbSetPixel 83 47 true) (small []))).map State.fb = some [(0, 0x01)] := by decide
theorem test_pixel_middle : (after (exec (.fbSetPixel 10 20 true) (small []))).map State.fb = some [(325, 0x08)] := by
  decide
theorem test_pixel_clears : fbRead (drawPixel 42 24 false (fbFill 0xFF)) 209 = 0x7F := by decide +kernel
theorem test_pixel_no_alias : (after (exec (.fbSetPixel 256 0 true) (small []))).map State.fb = some [] := by decide
theorem test_pixel_negative : (after (exec (.fbSetPixel (-1) 24 true) (small []))).map State.fb = some [] := by decide
theorem test_clear_then_bytes :
    (after (exec .fbBytes { small [] with fb := fbFill 0xFF })).map State.responses =
      some [.bytes (List.replicate 504 0xFF)] := by decide +kernel
theorem test_new_after_draw : (after (exec .fbNew { small [] with fb := [(3, 1)] })).map State.fb = some [] := by decide
theorem test_clear_off : (after (exec (.fbClear false) { small [] with fb := [(3, 1)] })).map State.fb = some [] := by
  decide

/-! ## The Controller (S5 to S8, B4 to B11) -/

theorem test_addressing_vertical :
    (after (exec (.lcdAddressingHorizontal false) (small [.ok, .ok]))).map (fun s => (s.func, s.trace)) =
      some (0x22, [.dc .low, .bus [0x22]]) := by decide
theorem test_addressing_keeps_func_on_failure :
    (after (exec (.lcdAddressingHorizontal false) (small (failAt 1)))).map (fun s => (s.func, s.trace, s.responses)) =
      some (0x22, [.dc .low], [.error .dcPin 7]) := by decide
theorem test_contrast_from_vertical :
    (after (exec (.lcdContrast 0xFF 0x13 0x04) { small (List.replicate 10 .ok) with func := 0x22 })).map
        (fun s => (s.func, s.trace)) =
      some (0x22, [.dc .low, .bus [0x23], .dc .low, .bus [0x04], .dc .low, .bus [0x13], .dc .low, .bus [0xFF],
        .dc .low, .bus [0x22]]) := by decide
theorem test_contrast_fails_in_excursion :
    (after (exec (.lcdContrast 0x3F 0x14 0x06) (small (failAt 8)))).map (fun s => (s.func, s.responses)) =
      some (0x21, [.error .bus 7]) := by decide
theorem test_position_masks :
    (after (exec (.lcdPosition 128 255) (small (List.replicate 4 .ok)))).map State.trace =
      some [.dc .low, .bus [0x80], .dc .low, .bus [0x47]] := by decide
theorem test_position_third_call_fails :
    (after (exec (.lcdPosition 10 2) (small (failAt 3)))).map (fun s => (s.trace, s.responses)) =
      some ([.dc .low, .bus [0x8A], .dc .low], [.error .dcPin 7]) := by decide
theorem test_data_empty :
    (after (exec (.lcdData []) (small [.ok, .ok]))).map (fun s => (s.trace, s.responses)) =
      some ([.dc .high, .bus []], [.ok]) := by decide
theorem test_data_partly_delivered :
    (after (exec (.lcdData [1, 2, 3]) (small [.ok, .fail 9 2]))).map (fun s => (s.wire, s.responses)) =
      some ([⟨.high, 1, .data⟩, ⟨.high, 2, .data⟩], [.error .bus 9]) := by decide
theorem test_reset_trace :
    (after (exec .lcdReset (small (List.replicate 6 .ok)))).map (fun s => (s.trace, s.pst)) =
      some ([.rst .high, .dly 100, .rst .low, .dly 100, .rst .high, .dly 100], .reset) := by decide
theorem test_reset_second_write_fails :
    (after (exec .lcdReset (small (failAt 3)))).map (fun s => (s.trace, s.responses, s.pst)) =
      some ([.rst .high, .dly 100, .rst .low], [.error .rstPin 7], .unknown) := by decide
theorem test_reset_delay_never_returns :
    (after (exec .lcdReset (small [.ok, .never 0]))).map (fun s => (s.trace, s.responses, s.seq)) =
      some ([.rst .high, .dly 100], [], some ⟨.lcdReset, 1⟩) := by decide
/-- With `RST_ACTIVE = HIGH` the levels are exchanged (B5). -/
theorem test_reset_other_polarity :
    (after (exec .lcdReset { small (List.replicate 6 .ok) with cfg := { Params.default with rstActive := .high } })).map
        State.trace = some [.rst .low, .dly 100, .rst .high, .dly 100, .rst .low, .dly 100] := by decide
theorem test_lcdClear_first_call_fails :
    (after (exec .lcdClear (small (failAt 1)))).map (fun s => (s.trace, s.responses)) =
      some ([.dc .high], [.error .dcPin 7]) := by decide
theorem test_lcdClear_bus_events :
    (after (exec .lcdClear (small (List.replicate 6 .ok)))).map State.trace =
      some [.dc .high, .bus (List.replicate 504 0), .dc .low, .bus [0x80], .dc .low, .bus [0x40]] := by decide +kernel
theorem test_init_trace :
    (after (exec .lcdInit { small (List.replicate 20 .ok) with func := 0x23 })).map (fun s => (s.func, s.trace)) =
      some (0x20, [.dc .low, .bus [0x20], .dc .low, .bus [0x21], .dc .low, .bus [0x06], .dc .low, .bus [0x14],
        .dc .low, .bus [0xBF], .dc .low, .bus [0x20], .dc .low, .bus [0x0C], .dc .high, .bus (List.replicate 504 0),
        .dc .low, .bus [0x80], .dc .low, .bus [0x40]]) := by decide +kernel
theorem test_init_eighth_call_fails :
    (after (exec .lcdInit (small (failAt 8)))).map (fun s => (s.func, s.responses, s.pst, s.trace)) =
      some (0x21, [.error .bus 7], .unknown,
        [.dc .low, .bus [0x20], .dc .low, .bus [0x21], .dc .low, .bus [0x06], .dc .low, .bus [0x14]]) := by decide
theorem test_init_row_eleven : (after (exec .lcdInit (small (failAt 11)))).map State.func = some 0x20 := by decide
theorem test_abandoned_contrast :
    (after (exec (.lcdContrast 1 2 3) { small (List.replicate 10 .ok) with abandonAt := some 2 })).map
        (fun s => (s.func, s.trace, s.responses, s.seq)) = some (0x21, [.dc .low, .bus [0x21]], [], none) := by decide
theorem test_never_returns :
    (after (exec (.lcdPosition 1 2) (small [.ok, .never 1]))).map (fun s => (s.seq, s.responses, s.wire)) =
      some (some ⟨.lcdPosition 1 2, 1⟩, [], [⟨.low, 0x81, .setX⟩]) := by decide
theorem test_status_codes :
    [Response.ok, .error .bus 7, .error .dcPin 7, .error .rstPin 7].map (responseStatus Params.default) = [0, 1, 2, 3] := by decide

/-! ## The device (R221 to R228, R60, R61) -/

theorem test_device_functionSet :
    (after (exec (.functionSet false true true) (small []))).map (fun s => (s.dev.pd, s.dev.v, s.dev.h)) =
      some (false, true, true) := by decide
theorem test_device_setX : (after (exec (.setX 42) (small []))).map (fun s => (s.dev.col, s.dev.bank)) = some (42, 5) := by
  decide
theorem test_device_setX_extended_is_vop :
    (after (exec (.setX 42) { small [] with dev := { knownDevice with h := true } })).map
      (fun s => (s.dev.col, s.dev.vop)) = some (83, 42) := by decide
theorem test_device_setVop :
    (after (exec (.setVop 0x3F) { small [] with dev := { knownDevice with h := true } })).map (fun s => s.dev.vop) =
      some 0x3F := by decide
theorem test_device_setY : (after (exec (.setY 2) (small []))).map (fun s => (s.dev.col, s.dev.bank)) = some (83, 2) := by
  decide
theorem test_device_temp :
    (after (exec (.temp 0x06) { small [] with dev := { knownDevice with h := true } })).map (fun s => s.dev.temp) =
      some 0x06 := by decide
theorem test_device_bias :
    (after (exec (.bias 0x14) { small [] with dev := { knownDevice with h := true } })).map (fun s => s.dev.bias) =
      some 0x14 := by decide
/-- A byte that is also a Function Set is recorded as the bias all the same (U4). -/
theorem test_device_bias_any_byte :
    (after (exec (.bias 0x20) { small [] with dev := { knownDevice with h := true } })).map
      (fun s => (s.dev.bias, s.dev.h)) = some (0x20, true) := by decide
/-- In the extended set the bank byte changes nothing (R59, R283). -/
theorem test_device_setY_extended :
    (after (exec (.setY 2) { small [] with dev := { knownDevice with h := true } })).map
      (fun s => (s.dev.col, s.dev.bank, s.dev.vop)) = some (83, 5, 0) := by decide
theorem test_device_displayNormal : (after (exec .displayNormal (small []))).map (fun s => s.dev.mode) = some .normal := by
  decide
theorem test_device_data_wraps :
    (after (exec (.dataByte 0xAA) (small []))).map (fun s => (ddramRead s.dev.ddram 503, s.dev.col, s.dev.bank)) =
      some (some 0xAA, 0, 0) := by decide +kernel
theorem test_device_data_vertical :
    (after (exec (.dataByte 0xAA) { small [] with dev := { knownDevice with v := true, col := 3 } })).map
      (fun s => (ddramRead s.dev.ddram 423, s.dev.col, s.dev.bank)) = some (some 0xAA, 4, 0) := by decide +kernel

/-! ## Step and fetch -/

theorem test_step_takes_wire_first :
    (after (step { small [] with wire := [⟨.low, 0x45, .setY⟩], pending := [⟨Request.plain 0x0, none⟩] })).map
      (fun s => (s.wire, s.pending.length)) = some ([], 1) := by decide
theorem test_step_runs_request :
    (after (step { small [] with pending := [⟨{ Request.plain 0x1 with a := 83, b := 47, f := true }, none⟩] })).map
      (fun s => (s.fb, s.responses, s.pending)) = some ([(0, 0x01)], [.ok], []) := by decide
/-- A bank operand that a wider `Y_MASK` lets through leaves the cursor free and nothing else changed (D6, U3). -/
theorem test_step_wide_bank :
    step { small [] with wire := [⟨.low, 0x48, .setY⟩] } = .next (loseCursor (small [])) := by rfl
theorem test_step_wide_bank_extended :
    step { small [] with wire := [⟨.low, 0x48, .setY⟩], dev := { knownDevice with h := true } } =
      .next { small [] with dev := { knownDevice with h := true } } := by rfl
theorem test_position_wide_mask :
    (after (exec (.lcdPosition 83 8) { small [.ok, .ok, .ok, .ok] with cfg := { Params.default with yMask := 0x0F } })).map
      (fun s => (s.trace, s.responses)) =
      some ([.dc .low, .bus [0xD3], .dc .low, .bus [0x48]], [.ok]) := by decide
theorem test_step_from_reset_idles : step State.reset = .next State.reset := step_of_idle rfl rfl rfl
/-- Block reset in the middle of a call that never returned: idle, the trace empty, `FB` zero (R36, R180). -/
theorem test_blockReset_idle :
    (fun s => (s.seq, s.trace, s.fb, s.func))
      (blockReset { small [] with fb := [(0, 0x01)], func := 0x23, seq := some ⟨.lcdInit, 3⟩, trace := [.dc .low] }) =
      ((none, [], [], 0x20) : Option Position × List Event × Mem × Byte) := by decide
theorem test_fetchWord_runs_fbClear :
    step (State.reset.withFetchWord 8 0x2) = exec (.fbClear false) { State.reset with pending := [] } := by rfl

/-! ## Premises that can be met

One theorem for each statement with premises; a premise with a boundary is met at it. -/

theorem witness_ThreeResets :
    { small [] with draws := 0 }.cfg = Params.default ∧ (small []).pending = [] ∧ (small []).answers = [] ∧
      { small [] with draws := 0 }.draws = 0 := by decide
theorem witness_legal : Params.default.legal = true := by decide
/-- Another legal set of parameters: narrow coordinates, the other polarity, the widest masks, two selectors exchanged. -/
theorem witness_legal_other :
    { Params.default with
      coordW := 8, rstActive := .high, xMask := 0xFF, yMask := 0x7F,
      numbering := [1, 0, 2, 3, 4, 5, 6, 7, 8, 9, 10, 11, 12, 13, 14, 15] }.legal = true := by decide
theorem witness_DecodeOfEncode : (Instr.fbSetPixel 2147483647 (-2147483648) true).wellFormed Params.default = true := by decide
theorem witness_RequestFieldsPerFormat_last :
    0xC ≤ (Params.default.row 0xC).toNat ∧ 0xC ≤ (Params.default.row 0xF).toNat := by decide
theorem witness_RequestFieldsPerFormat_others : Params.default.row 0x0 = 0x0 ∧ Params.default.row 0xB = 0xB := by decide
theorem witness_HostOpRowsDisjoint :
    (rowOf (.reserved0xCto0xF 3)).space = .hostOp ∧ (0x0F : Byte) &&& 0xC = 0xC ∧
      (rowOf .fbNew).space = .hostOp := by decide
theorem witness_StepRunsDecodedInstruction_byte :
    { small [] with wire := [⟨.low, 0x45, .setY⟩] }.wire = ⟨.low, 0x45, .setY⟩ :: [] ∧
      decodeWire ⟨.low, 0x45, .setY⟩ = .ok (.setY 5) := by decide
theorem witness_StepRunsDecodedInstruction_request :
    { small [] with pending := [⟨Request.plain 0x5, some 3⟩] }.pending = ⟨Request.plain 0x5, some 3⟩ :: [] ∧
      (small []).wire = [] ∧ (small []).seq = none := by decide
theorem witness_StepRunsDecodedInstruction_reject :
    { small [] with wire := [⟨.low, 0x05, .setY⟩] }.wire = ⟨.low, 0x05, .setY⟩ :: [] ∧
      decodeWire ⟨.low, 0x05, .setY⟩ = .error (.notThatCommand .setY) := by decide
theorem witness_IdleBlockWaits : (small []).wire = [] ∧ (small []).seq = none ∧ (small []).pending = [] := by decide
theorem witness_NeverReturningCall (n : Nat) (h : n < 6) :
    stepList (small []).cfg .lcdReset 0x20 = some (resetRows (small []).cfg 0x20) ∧
      n < (resetRows (small []).cfg 0x20).length ∧
      (small (List.replicate n .ok ++ [.never 0])).answers = List.replicate n .ok ++ .never 0 :: [] := ⟨rfl, h, rfl⟩
theorem witness_NeverReturningCall_stuck :
    { small [] with seq := some ⟨.lcdInit, 3⟩ }.wire = [] ∧
      { small [] with seq := some ⟨.lcdInit, 3⟩ }.seq = some ⟨.lcdInit, 3⟩ := by decide
theorem witness_WireStaysDecodable_mask : Params.default.yMask &&& 0xBF = 0x07 := by decide
theorem witness_WireOk : WireOk { small [] with wire := [⟨.low, 0xFF, .setX⟩, ⟨.high, 0x00, .data⟩] } := by
  unfold WireOk; decide
theorem witness_SetPixelDraws : (83 : Nat) < 84 ∧ (0 : Nat) < 84 ∧ (47 : Nat) < 48 ∧ (0 : Nat) < 48 := by decide
theorem witness_PixelReadsBack : (83 : Nat) < 84 ∧ 47 < 48 ∧ 82 < 84 ∧ ((82 : Nat) ≠ 83 ∨ 47 ≠ 47) := by decide
theorem witness_PixelBijection_full (x y : Nat) (hx : x < 84) (_hy : y < 48) : pixelOn (fbFill 0xFF) x y = true := by
  unfold pixelOn
  rw [fbRead_fbFill _ _ (by unfold Config.bufSize; omega)]
  have : ∀ r, r < 8 → decide ((0xFF#8 &&& (0x80#8 >>> r)) ≠ 0) = true := by decide
  exact this (y % 8) (by omega)
theorem witness_FrameBufferOps : isFrameBufferOp (.fbSetPixel 84 (-1) true) = true := by decide
theorem witness_DrawIsItsRequests :
    (small []).wire = [] ∧ (small []).seq = none ∧ (small []).abandonAt = none ∧
      ∀ p ∈ ([(0, 0, true), (84, -1, true), (83, 47, false)] : List (Int × Int × Bool)),
        coordFits (small []).cfg.coordW p.1 = true ∧ coordFits (small []).cfg.coordW p.2.1 = true := by decide
theorem witness_BoundingBox_outside : boundingBox.contains 84 0 = false ∧ boundingBox.contains (-1) 47 = false := by decide
theorem witness_RunsThrough (n : Nat) (rest : List Answer) :
    RunsThrough n rest (small (List.replicate n .ok ++ rest)) := ⟨rfl, rfl⟩
theorem witness_ResetAborts :
    (small [.fail 7 1]).answers = .fail 7 1 :: [] ∧ (small [.ok, .ok, .fail 7 1]).answers = .ok :: .ok :: .fail 7 1 :: [] ∧
      (small [.ok, .ok, .ok, .ok, .fail 7 1]).answers = .ok :: .ok :: .ok :: .ok :: .fail 7 1 :: [] ∧
      (small [.fail 7 1]).abandonAt = none := by decide
theorem witness_FailsAtNthCall (n : Nat) :
    (small (failAt n)).answers = List.replicate (n - 1) .ok ++ .fail 7 0 :: [] ∧ (small (failAt n)).abandonAt = none :=
  ⟨rfl, rfl⟩
theorem witness_AddressingSendsFunctionSet :
    (small [.ok, .ok]).answers = .ok :: .ok :: [] ∧ (small [.fail 1 0]).answers = .fail 1 0 :: [] ∧
      (small [.ok, .fail 1 5]).answers = .ok :: .fail 1 5 :: [] ∧ (small []).abandonAt = none := by decide
/-- The rows of `lcd.position(1, 2)`, and a script for each of the three endings. -/
theorem witness_AbortAtFirstFailingCall :
    stepList Params.default (.lcdPosition 1 2) 0x20 = some (positionRows Params.default 1 2 0x20) ∧
      (∀ answers ∈ [failAt 4, List.replicate 4 .ok, [.ok, .ok, .never 0, .ok]],
        (positionRows Params.default 1 2 0x20).length ≤ (small answers).answers.length) ∧
      (play (positionRows Params.default 1 2 0x20) (failAt 4) 0x20).ends = .error .bus 7 ∧
      (play (positionRows Params.default 1 2 0x20) (List.replicate 4 .ok) 0x20).ends = .ok ∧
      (play (positionRows Params.default 1 2 0x20) [.ok, .ok, .never 0, .ok] 0x20).ends = .waiting := by decide
theorem witness_AbandonedAfterCalls :
    stepList Params.default (.lcdPosition 1 2) 0x20 = some (positionRows Params.default 1 2 0x20) ∧
      4 ≤ (positionRows Params.default 1 2 0x20).length ∧
      { small (List.replicate 4 .ok) with abandonAt := some 4 }.abandonAt = some 4 ∧
      (small (List.replicate 4 .ok)).answers = List.replicate (positionRows Params.default 1 2 0x20).length .ok ++ [] := by
  decide
theorem witness_ErrorKinds :
    (after (exec .lcdReset (small (failAt 1)))).map State.responses = some ((small []).responses ++ [.error .rstPin 7]) := by
  decide
theorem witness_ControllerOp : isControllerOp (.lcdContrast 1 2 3) = true ∧ isControllerOp (.lcdData []) = true := by decide
theorem witness_FuncWriters :
    exec .lcdReset (small [.ok]) = .next (conclude afterReset (resetSteps Params.default (accept .lcdReset (small [.ok])))) :=
  operation_of_not_abandoned rfl
theorem witness_FuncWriters_init : ∃ t, exec .lcdInit (small []) = .next t ∧ (small []).cfg.legal = true :=
  ⟨_, rfl, witness_legal⟩
theorem witness_ProtocolState : exec .fbNew (small []) = .next (respond .ok (setFb (fbFill 0) (small []))) := rfl
theorem witness_BlockIndependentOfDevice : isBusInstr .lcdInit = false ∧ isBusInstr .fbBytes = false := by decide
theorem witness_FuncLegal : FuncLegal { small [] with func := 0x23 } := by unfold FuncLegal; decide
theorem witness_MemoryOk :
    MemoryOk { small [] with fb := [(0, 0x01), (503, 0x80)], dev := { knownDevice with col := 3 } } := by
  unfold MemoryOk; decide +kernel
theorem witness_Framed :
    Framed { small [] with trace := [.rst .high, .dly 100, .dc .low, .bus [0x20], .dc .high, .bus [], .dc .low] } := by
  unfold Framed; decide
theorem witness_step_next :
    ∃ t, step { small [] with pending := [⟨Request.plain 0x2, none⟩] } = .next t := ⟨_, rfl⟩
/-- A ready machine: the device as `FUNC` says, with the contrast of the ghost. -/
theorem witness_ReadyInv :
    ReadyInv { small [] with pst := .ready, contrast := some ⟨0, 0, 0⟩, dev := { knownDevice with mode := .normal } } := by
  refine ⟨fun _ _ => ⟨.inl rfl, _, _, rfl, rfl, ?_, ?_, rfl, ?_⟩, fun _ _ => ?_, .inl rfl, witness_legal⟩
  · unfold OutOfReset; decide
  · unfold DeviceAsFunc; decide
  · unfold HasContrast; decide
  · unfold OutOfReset; decide
theorem witness_OutOfReset : OutOfReset (small []) := by unfold OutOfReset; decide
theorem witness_ColumnOrVop_column : (83 : Fin 84).val = (83 : BitVec 7).toNat ∧ (small []).dev.h = false := by decide
theorem witness_ColumnOrVop_beyond : 84 ≤ (84 : BitVec 7).toNat ∧ 84 ≤ (127 : BitVec 7).toNat := by decide
theorem witness_ColumnOrVop_extended : { small [] with dev := { knownDevice with h := true } }.dev.h = true := by decide
theorem witness_BankSetsBank : (5 : Fin 6).val = (5 : BitVec 3).toNat ∧ 6 ≤ (6 : BitVec 3).toNat := by decide
theorem witness_BankSetsBank_wide : 8 ≤ (8 : Byte).toNat ∧ (63 : Byte).toNat < 64 := by decide
theorem witness_DataByte_directions :
    (small []).dev.v = false ∧ { small [] with dev := { knownDevice with v := true } }.dev.v = true := by decide
theorem witness_DeviceSteps : isBusInstr .displayNormal = true ∧ isBusInstr (.dataByte 0) = true := by decide
theorem witness_DeviceSteps_held : { small [] with rstPin := .low }.rstPin = (small []).cfg.rstActive := by decide
theorem witness_StepsThroughAllCells : StepsThroughAllCells { small [] with dev := { knownDevice with v := true } } :=
  fun _ => rfl
theorem witness_FullFrame_run : (List.replicate 504 (0xAA : Byte)).length = 504 := List.length_replicate
theorem witness_MirrorReady : MirrorReady { small [.ok, .ok] with dev := { knownDevice with col := 0, bank := 0 } } := by
  unfold MirrorReady OutOfReset; decide
theorem witness_ClearBlanksDisplay :
    (small []).wire = [] ∧ OutOfReset (small []) ∧ (small []).dev.h = false ∧ StepsThroughAllCells (small []) ∧
      RunsThrough 6 [] (small (List.replicate 6 .ok ++ [])) :=
  ⟨rfl, witness_OutOfReset, rfl, fun _ => rfl, witness_RunsThrough 6 []⟩
theorem witness_InitConfiguresDevice :
    (small []).cfg.legal = true ∧ (small []).wire = [] ∧ OutOfReset (small []) ∧
      RunsThrough 20 [] (small (List.replicate 20 .ok ++ [])) :=
  ⟨witness_legal, rfl, witness_OutOfReset, witness_RunsThrough 20 []⟩
theorem witness_ContrastProgramsDevice :
    FuncLegal (small []) ∧ (small []).wire = [] ∧ OutOfReset (small []) ∧
      RunsThrough 10 [] (small (List.replicate 10 .ok ++ [])) :=
  ⟨.inl rfl, rfl, witness_OutOfReset, witness_RunsThrough 10 []⟩
theorem witness_PositionMovesCursor :
    (83 : Fin 84).val = (83 : Byte).toNat ∧ (5 : Fin 6).val = (5 : Byte).toNat ∧ (small []).wire = [] := by decide

end Sys2Proof.Tests
end

/-! PROOFS. The obligations of 00_scope.md, after the lemmas they rest on: the request and byte decoders case by case, and
a property kept through every operation of the Controller. -/

section

namespace Sys2Proof

/-! ## The selector's row decides the operation (R91, R92)

One equation per row of the request port, of any request under any parameters. -/

section
variable {p : Params} {r : Request}

theorem decodeRequest_fbNew (h : p.row r.op = 0x0) : decodeRequest p r = .fbNew := by
  simp [decodeRequest, h]
theorem decodeRequest_fbSetPixel (h : p.row r.op = 0x1) :
    decodeRequest p r = .fbSetPixel (signedField p.coordW r.a) (signedField p.coordW r.b) r.f := by
  simp [decodeRequest, h]
theorem decodeRequest_fbClear (h : p.row r.op = 0x2) : decodeRequest p r = .fbClear r.f := by
  simp [decodeRequest, h]
theorem decodeRequest_fbBytes (h : p.row r.op = 0x3) : decodeRequest p r = .fbBytes := by
  simp [decodeRequest, h]
theorem decodeRequest_lcdReset (h : p.row r.op = 0x4) : decodeRequest p r = .lcdReset := by
  simp [decodeRequest, h]
theorem decodeRequest_lcdInit (h : p.row r.op = 0x5) : decodeRequest p r = .lcdInit := by
  simp [decodeRequest, h]
theorem decodeRequest_lcdAddressingHorizontal (h : p.row r.op = 0x6) :
    decodeRequest p r = .lcdAddressingHorizontal r.f := by
  simp [decodeRequest, h]
theorem decodeRequest_lcdContrast (h : p.row r.op = 0x7) :
    decodeRequest p r = .lcdContrast (lowByteOfField p.coordW r.a) (lowByteOfField p.coordW r.b) r.c := by
  simp [decodeRequest, h]
theorem decodeRequest_lcdPosition (h : p.row r.op = 0x8) :
    decodeRequest p r = .lcdPosition (lowByteOfField p.coordW r.a) (lowByteOfField p.coordW r.b) := by
  simp [decodeRequest, h]
theorem decodeRequest_lcdClear (h : p.row r.op = 0x9) : decodeRequest p r = .lcdClear := by
  simp [decodeRequest, h]
theorem decodeRequest_lcdData (h : p.row r.op = 0xA) : decodeRequest p r = .lcdData r.run := by
  simp [decodeRequest, h]
theorem decodeRequest_reserved0xB (h : p.row r.op = 0xB) : decodeRequest p r = .reserved0xB := by
  simp [decodeRequest, h]

/-- The rows 0xC to 0xF are told apart by their two low bits alone (R95). -/
theorem decodeRequest_reserved0xCto0xF (h : 0xC ≤ (p.row r.op).toNat) :
    decodeRequest p r = .reserved0xCto0xF ((p.row r.op).setWidth 2) := by
  have other (k : BitVec 4) (hk : k.toNat < 0xC) : p.row r.op ≠ k := by
    rintro e
    rw [e] at h
    omega
  simp [decodeRequest, other, BitVec.setWidth_eq_extractLsb']

/-- A reserved row's number is read back from its two low bits. -/
theorem decodeRequest_reserved_append {low : BitVec 2} (h : p.row r.op = 0x3#2 ++ low) :
    decodeRequest p r = .reserved0xCto0xF low := by
  have reserved : ∀ l : BitVec 2, 0xC ≤ (0x3#2 ++ l).toNat := by decide
  rw [decodeRequest_reserved0xCto0xF (h ▸ reserved low), h, BitVec.setWidth_append_eq_right]

end

/-! ## A byte of a command frame (R99 to R103)

The fixed bits of a command byte are those of its row of the table, which `Laws.RowPattern` says of every instruction. -/

/-- A coded instruction of a row has the row's fixed bits. -/
theorem Row.fixedBits_of_admits {row : Row} {c : Coded} (h : row.admits c = true) :
    c.tableWord &&& row.mask = row.pattern := by
  simp only [Row.admits, Bool.and_eq_true, beq_iff_eq] at h
  exact h.2

theorem decodeWire_functionSetByte (pd v h : Bool) :
    decodeWire { dc := .low, byte := functionSetByte pd v h, frame := .functionSet } = .ok (.functionSet pd v h) := by
  revert pd v h; decide

theorem decodeWire_setVop (v : BitVec 7) :
    decodeWire { dc := .low, byte := 1#1 ++ v, frame := .setVop } = .ok (.setVop v) := by
  have fixed : (1#1 ++ v : Byte) &&& 0x80 = 0x80 := Row.fixedBits_of_admits (Laws.RowPattern.setVop v rfl)
  simp only [decodeWire, if_pos fixed, BitVec.extractLsb'_append_eq_right]

theorem decodeWire_setX (x : BitVec 7) :
    decodeWire { dc := .low, byte := 1#1 ++ x, frame := .setX } = .ok (.setX x) := by
  have fixed : (1#1 ++ x : Byte) &&& 0x80 = 0x80 := Row.fixedBits_of_admits (Laws.RowPattern.setX x rfl)
  simp only [decodeWire, if_pos fixed, BitVec.extractLsb'_append_eq_right]

theorem decodeWire_setY (y : BitVec 3) :
    decodeWire { dc := .low, byte := 0x08#5 ++ y, frame := .setY } = .ok (.setY y) := by
  have fixed : (0x08#5 ++ y : Byte) &&& 0xF8 = 0x40 := Row.fixedBits_of_admits (Laws.RowPattern.setY y rfl)
  simp only [decodeWire, if_pos fixed, BitVec.extractLsb'_append_eq_right]

end Sys2Proof

namespace Sys2Proof.Machine

open Sys2Proof.Safety

/-! ## A property kept through the operations of the Controller -/

/-- Every update an operation of the Controller is made of keeps the property: its acceptance, each call with any part of
its effect, the values it gives `FUNC`, and each of its endings. -/
structure KeptByController (P : State → Prop) : Prop where
  onAccept : ∀ i s, P s → P (accept i s)
  onCall : ∀ ev as n s, P s → P { record ev s with answers := as, draws := n }
  onDriveDc : ∀ level n s, P s → P (driveDc level n s)
  onDriveRst : ∀ level n s, P s → P (driveRst level n s)
  onDeliver : ∀ frame run n s, P s → P (deliver frame run n s)
  onAdvance : ∀ s, P s → P (advance s)
  onHorizontal : ∀ horizontal s, P s → P (setFunc (withHorizontal s.func horizontal) s)
  onExtended : ∀ s, P s → P (setFunc (withExtended s.func) s)
  onBasic : ∀ s, P s → P (setFunc (withBasic s.func) s)
  onRestore : ∀ s, P s → P (setFunc s.cfg.funcReset s)
  onComplete : ∀ onOk s, P s → P (complete onOk s)
  onAbort : ∀ k e s, P s → P (abort k e s)
  onAbandon : ∀ s, P s → P (abandon s)

namespace KeptByController

variable {P : State → Prop} (hP : KeptByController P) {s t : State}
include hP

theorem dcSet_holds (level : Level) (h : P s) : (dcSet level s).Holds P :=
  capabilityCall_holds (fun as n => hP.onCall _ as n s h) (hP.onDriveDc level) hP.onAdvance

theorem rstSet_holds (level : Level) (h : P s) : (rstSet level s).Holds P :=
  capabilityCall_holds (fun as n => hP.onCall _ as n s h) (hP.onDriveRst level) hP.onAdvance

theorem busWrite_holds (frame : Frame) (run : List Byte) (h : P s) : (busWrite frame run s).Holds P :=
  capabilityCall_holds (fun as n => hP.onCall _ as n s h) (hP.onDeliver frame run) hP.onAdvance

theorem delay_holds (us : BitVec 32) (h : P s) : (delay us s).Holds P := by
  obtain ⟨as, n, e | e⟩ := delay_cases us s <;> rw [e]
  · exact goOn_holds (hP.onAdvance _ (hP.onCall _ as n s h))
  · exact hP.onCall _ as n s h

theorem cmdFrame_holds (frame : Frame) (b : Byte) (h : P s) : (cmdFrame frame b s).Holds P :=
  (hP.dcSet_holds .low h).andThen fun _ => hP.busWrite_holds frame [b]

theorem dataFrame_holds (run : List Byte) (h : P s) : (dataFrame run s).Holds P :=
  (hP.dcSet_holds .high h).andThen fun _ => hP.busWrite_holds .data run

theorem resetSteps_holds (p : Params) (h : P s) : (resetSteps p s).Holds P :=
  (hP.rstSet_holds _ h).andThen fun _ h =>
  (hP.delay_holds _ h).andThen fun _ h =>
  (hP.rstSet_holds _ h).andThen fun _ h =>
  (hP.delay_holds _ h).andThen fun _ h =>
  (hP.rstSet_holds _ h).andThen fun _ h =>
  hP.delay_holds _ h

theorem addressingSteps_holds (horizontal : Bool) (h : P s) : (addressingSteps horizontal s).Holds P :=
  hP.cmdFrame_holds _ _ (hP.onHorizontal horizontal s h)

theorem contrastSteps_holds (contrast bias temp : Byte) (h : P s) : (contrastSteps contrast bias temp s).Holds P :=
  (hP.cmdFrame_holds _ _ (hP.onExtended s h)).andThen fun _ h =>
  (hP.cmdFrame_holds _ _ h).andThen fun _ h =>
  (hP.cmdFrame_holds _ _ h).andThen fun _ h =>
  (hP.cmdFrame_holds _ _ h).andThen fun s h =>
  hP.cmdFrame_holds _ _ (hP.onBasic s h)

theorem positionSteps_holds (p : Params) (x y : Byte) (h : P s) : (positionSteps p x y s).Holds P :=
  (hP.cmdFrame_holds _ _ h).andThen fun _ h => hP.cmdFrame_holds _ _ h

theorem clearSteps_holds (p : Params) (h : P s) : (clearSteps p s).Holds P :=
  (hP.dataFrame_holds _ h).andThen fun _ h => hP.positionSteps_holds p 0 0 h

theorem initSteps_holds (h : P s) : (initSteps s.cfg s).Holds P :=
  (hP.addressingSteps_holds true (hP.onRestore s h)).andThen fun _ h =>
  (hP.contrastSteps_holds _ _ _ h).andThen fun _ h =>
  (hP.cmdFrame_holds _ _ h).andThen fun _ h =>
  hP.clearSteps_holds _ h

/-- Every ending of an operation keeps the property. -/
theorem conclude_keeps (onOk : Ghosts → Ghosts) {r : Run} (h : r.Holds P) : P (conclude onOk r) := by
  cases r with
  | going s => exact hP.onComplete onOk s h
  | raised k e s => exact hP.onAbort k e s h
  | abandoned s => exact hP.onAbandon s h
  | waiting s => exact h

/-- An operation whose steps keep the property keeps it, abandoned at once or not. -/
theorem operation_keeps {i : Instr} {onOk : Ghosts → Ghosts} {steps : State → Run}
    (hsteps : (steps (accept i s)).Holds P) (h : P s) (he : operation i onOk steps s = .next t) : P t := by
  rw [operation_next] at he
  obtain rfl := Host.Outcome.next.inj he
  apply hP.conclude_keeps
  rcases goOn_cases (accept i s) with e | e <;> rw [e]
  · exact hsteps
  · exact hP.onAccept i s h

/-- Every operation of the Controller keeps the property, whatever the environment answers. -/
theorem exec_keeps {i : Instr} (hi : isControllerOp i = true) (h : P s) (he : exec i s = .next t) : P t := by
  have ha : P (accept i s) := hP.onAccept i s h
  cases i with
  | lcdReset => exact hP.operation_keeps (hP.resetSteps_holds _ ha) h he
  | lcdInit => exact hP.operation_keeps (hP.initSteps_holds ha) h he
  | lcdAddressingHorizontal horizontal => exact hP.operation_keeps (hP.addressingSteps_holds horizontal ha) h he
  | lcdContrast contrast bias temp => exact hP.operation_keeps (hP.contrastSteps_holds contrast bias temp ha) h he
  | lcdPosition x y => exact hP.operation_keeps (hP.positionSteps_holds _ x y ha) h he
  | lcdClear => exact hP.operation_keeps (hP.clearSteps_holds _ ha) h he
  | lcdData run => exact hP.operation_keeps (hP.dataFrame_holds run ha) h he
  | _ => exact Bool.noConfusion hi

end KeptByController

/-! ## What an instruction that answers a next state can be -/

/-- An operation of the FrameBuffer writes `FB` and responds, and that is all (R130). -/
theorem exec_frameBufferOp {i : Instr} (hi : isFrameBufferOp i = true) (s : State) :
    ∃ r m, exec i s = .next (respond r (setFb m s)) := by
  cases i with
  | fbNew => exact ⟨_, _, rfl⟩
  | fbSetPixel x y on => exact ⟨_, _, rfl⟩
  | fbClear on => exact ⟨_, _, rfl⟩
  | fbBytes => exact ⟨_, s.fb, rfl⟩
  | _ => exact Bool.noConfusion hi

/-- Every instruction of the bus changes the device alone. -/
theorem exec_busInstr {i : Instr} (hi : isBusInstr i = true) (s : State) :
    ∃ t, exec i s = .next t ∧ DeviceOnly s t := by
  apply exec_deviceOnly
  cases i with
  | functionSet | temp | bias | setVop | setX | setY | displayNormal | dataByte => trivial
  | _ => exact Bool.noConfusion hi

/-- Only the reserved rows answer no next state: any other instruction is an operation of the FrameBuffer, one of the
Controller, or one of the bus. -/
theorem kind_of_exec_next {i : Instr} {s t : State} (h : exec i s = .next t) :
    isFrameBufferOp i = true ∨ isControllerOp i = true ∨ isBusInstr i = true := by
  cases i with
  | fbNew | fbSetPixel | fbClear | fbBytes => exact .inl rfl
  | lcdReset | lcdInit | lcdAddressingHorizontal | lcdContrast | lcdPosition | lcdClear | lcdData =>
    exact .inr (.inl rfl)
  | reserved0xB | reserved0xCto0xF => exact nomatch h
  | functionSet | temp | bias | setVop | setX | setY | displayNormal | dataByte => exact .inr (.inr rfl)

/-! ## The parameters (R8) -/

theorem DeviceOnly.cfg {s t : State} (h : DeviceOnly s t) : t.cfg = s.cfg := by
  rw [h]

@[simp] theorem driveDc_cfg (level : Level) (n : Nat) (s : State) : (driveDc level n s).cfg = s.cfg := by
  unfold driveDc
  split <;> rfl

@[simp] theorem driveRst_cfg (level : Level) (n : Nat) (s : State) : (driveRst level n s).cfg = s.cfg := by
  unfold driveRst
  split
  · rfl
  · split <;> rfl

/-- No update of a Controller operation writes the parameters. -/
theorem cfg_keptByController (c : Params) : KeptByController (fun s => s.cfg = c) where
  onAccept _ _ h := h
  onCall _ _ _ _ h := h
  onDriveDc level n s h := (driveDc_cfg level n s).trans h
  onDriveRst level n s h := (driveRst_cfg level n s).trans h
  onDeliver _ _ _ _ h := h
  onAdvance _ h := h
  onHorizontal _ _ h := h
  onExtended _ h := h
  onBasic _ h := h
  onRestore _ h := h
  onComplete _ _ h := h
  onAbort _ _ _ h := h
  onAbandon _ h := h

theorem exec_cfg {i : Instr} {s t : State} (h : exec i s = .next t) : t.cfg = s.cfg := by
  rcases kind_of_exec_next h with hi | hi | hi
  · obtain ⟨r, m, e⟩ := exec_frameBufferOp hi s
    obtain rfl := Host.Outcome.next.inj (h.symm.trans e)
    rfl
  · exact (cfg_keptByController s.cfg).exec_keeps hi rfl h
  · obtain ⟨u, e, hu⟩ := exec_busInstr hi s
    obtain rfl := Host.Outcome.next.inj (h.symm.trans e)
    exact hu.cfg

/-- Taking a byte or a request leaves the parameters too, so that a step does. -/
theorem step_cfg {s t : State} (h : step s = .next t) : t.cfg = s.cfg := by
  rcases step_next_cases h with ⟨w, rest, i, -, -, he⟩ | ⟨w, rest, e, -, -, he⟩ | ⟨p, rest, -, -, -, he⟩ | ⟨-, -, -, rfl⟩
  · exact (exec_cfg he).trans (takeByte_cfg s rest)
  · obtain ⟨u, hu, hd⟩ := execUnlisted_deviceOnly w (takeByte rest s)
    obtain rfl := Host.Outcome.next.inj (he.symm.trans hu)
    exact hd.cfg
  · exact (exec_cfg he).trans (takeRequest_cfg s p rest)
  · rfl

/-! ## The DDRAM after block reset (R36) -/

@[simp] theorem Device.arbitrary_ddram (k : Nat) : (Device.arbitrary k).ddram = Mem.arbitrary k := by
  rw [Device.arbitrary]

theorem ddramRead_reset {a : Nat} (h : a < 504) : ddramRead State.reset.dev.ddram a = some (Config.freeDdram 0 a) := by
  rw [State.reset, Device.arbitrary_ddram, ddramRead_arbitrary 0 h]

end Sys2Proof.Machine

namespace Sys2Proof.Proofs

open Sys2Proof.Machine

/-! ## The obligations of 00_scope.md -/

/-- Settles O1: a host operation's number on the port stands for its row, and its row gives back the operands; a bus byte
has the fixed bits of its frame, and its other bits are the operand. -/
theorem decodeOfEncode : Obligations.DecodeOfEncode := by
  intro p i hp hi
  have row := row_portNumber hp
  have wide := coordW_of_legal hp
  cases i with
  | fbNew => exact congrArg Except.ok (decodeRequest_fbNew (row _))
  | fbSetPixel x y on =>
    obtain ⟨hx, hy⟩ : coordFits p.coordW x = true ∧ coordFits p.coordW y = true := by
      simpa [Instr.wellFormed] using hi
    refine congrArg Except.ok ((decodeRequest_fbSetPixel (row _)).trans ?_)
    rw [signedField_of_fits wide hx, signedField_of_fits wide hy]
  | fbClear on => exact congrArg Except.ok (decodeRequest_fbClear (row _))
  | fbBytes => exact congrArg Except.ok (decodeRequest_fbBytes (row _))
  | lcdReset => exact congrArg Except.ok (decodeRequest_lcdReset (row _))
  | lcdInit => exact congrArg Except.ok (decodeRequest_lcdInit (row _))
  | lcdAddressingHorizontal h => exact congrArg Except.ok (decodeRequest_lcdAddressingHorizontal (row _))
  | lcdContrast v b t =>
    refine congrArg Except.ok ((decodeRequest_lcdContrast (row _)).trans ?_)
    rw [lowByteOfField_toNat wide, lowByteOfField_toNat wide]
  | lcdPosition x y =>
    refine congrArg Except.ok ((decodeRequest_lcdPosition (row _)).trans ?_)
    rw [lowByteOfField_toNat wide, lowByteOfField_toNat wide]
  | lcdClear => exact congrArg Except.ok (decodeRequest_lcdClear (row _))
  | lcdData run => exact congrArg Except.ok (decodeRequest_lcdData (row _))
  | reserved0xB => exact congrArg Except.ok (decodeRequest_reserved0xB (row _))
  | reserved0xCto0xF low => exact congrArg Except.ok (decodeRequest_reserved_append (row _))
  | functionSet pd v h => exact decodeWire_functionSetByte pd v h
  | temp t => rfl
  | bias b => rfl
  | setVop v => exact decodeWire_setVop v
  | setX x => exact decodeWire_setX x
  | setY y => exact decodeWire_setY y
  | displayNormal => rfl
  | dataByte d => rfl

/-- Settles O41: no update of any operation writes `cfg`, and no step does. -/
theorem parametersAreFixed : Obligations.ParametersAreFixed :=
  ⟨fun _ _ _ => exec_cfg, fun _ _ => step_cfg⟩

/-- Settles O2, by the equation of each row; the fields it names are those of `signedField` and `lowByteOfField`. -/
theorem requestFieldsPerFormat : Obligations.RequestFieldsPerFormat :=
  ⟨row_default, fun _ _ =>
    ⟨decodeRequest_fbNew, decodeRequest_fbSetPixel, decodeRequest_fbClear, decodeRequest_fbBytes, decodeRequest_lcdReset,
      decodeRequest_lcdInit, decodeRequest_lcdAddressingHorizontal, decodeRequest_lcdContrast, decodeRequest_lcdPosition,
      decodeRequest_lcdClear, decodeRequest_lcdData, decodeRequest_reserved0xB, decodeRequest_reserved0xCto0xF⟩⟩

/-- Settles O10: the fields as `State.reset` gives them, and the cells of an arbitrary DDRAM. -/
theorem resetState : Obligations.ResetState :=
  ⟨rfl, by decide, fun _ _ => rfl, rfl, rfl, rfl, rfl, rfl, rfl, fun _ => ddramRead_reset⟩

end Sys2Proof.Proofs

end

/-! PROOFS. The obligations of 10_state.md, after the lemmas they rest on: what an operation of the Controller keeps;
its steps as the calls of its step list, made one after the other; two runs of it from states that agree in what it
reads. -/

section

namespace Sys2Proof.Machine

open Sys2Proof.Safety

/-! ## `FUNC` stays legal (R25) -/

theorem DeviceOnly.func {s t : State} (h : DeviceOnly s t) : t.func = s.func := by
  rw [h]

@[simp] theorem driveDc_func (level : Level) (n : Nat) (s : State) : (driveDc level n s).func = s.func := by
  unfold driveDc
  split <;> rfl

@[simp] theorem driveRst_func (level : Level) (n : Nat) (s : State) : (driveRst level n s).func = s.func := by
  unfold driveRst
  split
  · rfl
  · split <;> rfl

/-- A legal `FUNC_RESET` is a Function Set byte of the basic set with power-down clear (R8, D7). -/
theorem funcReset_of_legal {p : Params} (h : p.legal = true) : p.funcReset = 0x20 ∨ p.funcReset = 0x22 := by
  have byte : ∀ b : Byte, b &&& 0xFD = 0x20 → b = 0x20 ∨ b = 0x22 := by decide
  apply byte
  simp only [Params.legal, Bool.and_eq_true, beq_iff_eq] at h
  tauto

theorem exec_frameBufferOp_func {i : Instr} {s t : State} (hi : isFrameBufferOp i = true) (h : exec i s = .next t) :
    t.func = s.func := by
  obtain ⟨r, m, e⟩ := exec_frameBufferOp hi s
  obtain rfl := Host.Outcome.next.inj (h.symm.trans e)
  rfl

theorem exec_busInstr_func {i : Instr} {s t : State} (hi : isBusInstr i = true) (h : exec i s = .next t) :
    t.func = s.func := by
  obtain ⟨u, e, hu⟩ := exec_busInstr hi s
  obtain rfl := Host.Outcome.next.inj (h.symm.trans e)
  exact hu.func

section
variable {s t : State}

/-- Legality is a matter of `FUNC` alone. -/
theorem funcLegal_congr (h : FuncLegal s) (e : t.func = s.func) : FuncLegal t := by
  rwa [FuncLegal, e]

theorem funcLegal_withHorizontal (h : FuncLegal s) (horizontal : Bool) :
    FuncLegal (setFunc (withHorizontal s.func horizontal) s) := by
  unfold FuncLegal
  rw [setFunc_func]
  rcases h with h | h | h | h <;> rw [h] <;> revert horizontal <;> decide

theorem funcLegal_withExtended (h : FuncLegal s) : FuncLegal (setFunc (withExtended s.func) s) := by
  unfold FuncLegal
  rw [setFunc_func]
  rcases h with h | h | h | h <;> rw [h] <;> decide

theorem funcLegal_withBasic (h : FuncLegal s) : FuncLegal (setFunc (withBasic s.func) s) := by
  unfold FuncLegal
  rw [setFunc_func]
  rcases h with h | h | h | h <;> rw [h] <;> decide

theorem funcLegal_restored (h : s.cfg.legal = true) : FuncLegal (setFunc s.cfg.funcReset s) :=
  (funcReset_of_legal h).elim .inl fun e => .inr (.inr (.inl e))

/-- Every value an operation of the Controller gives `FUNC` is legal, if the parameters are. -/
theorem funcLegal_keptByController : KeptByController (fun s => s.cfg.legal = true ∧ FuncLegal s) where
  onAccept _ _ h := h
  onCall _ _ _ _ h := h
  onDriveDc level n s h := ⟨by rw [driveDc_cfg]; exact h.1, funcLegal_congr h.2 (driveDc_func level n s)⟩
  onDriveRst level n s h := ⟨by rw [driveRst_cfg]; exact h.1, funcLegal_congr h.2 (driveRst_func level n s)⟩
  onDeliver _ _ _ _ h := h
  onAdvance _ h := h
  onHorizontal horizontal _ h := ⟨h.1, funcLegal_withHorizontal h.2 horizontal⟩
  onExtended _ h := ⟨h.1, funcLegal_withExtended h.2⟩
  onBasic _ h := ⟨h.1, funcLegal_withBasic h.2⟩
  onRestore _ h := ⟨h.1, funcLegal_restored h.1⟩
  onComplete _ _ h := h
  onAbort _ _ _ h := h
  onAbandon _ h := h

theorem exec_funcLegal {i : Instr} (hc : s.cfg.legal = true) (hf : FuncLegal s) (h : exec i s = .next t) :
    FuncLegal t := by
  rcases kind_of_exec_next h with hi | hi | hi
  · exact funcLegal_congr hf (exec_frameBufferOp_func hi h)
  · exact (funcLegal_keptByController.exec_keeps hi ⟨hc, hf⟩ h).2
  · exact funcLegal_congr hf (exec_busInstr_func hi h)

theorem step_funcLegal (hc : s.cfg.legal = true) (hf : FuncLegal s) (h : step s = .next t) : FuncLegal t := by
  rcases step_next_cases h with
    ⟨w, rest, i, -, -, he⟩ | ⟨w, rest, e, -, -, he⟩ | ⟨p, rest, -, -, -, he⟩ | ⟨-, -, -, rfl⟩
  · exact exec_funcLegal (s := takeByte rest s) hc hf he
  · obtain ⟨u, hu, hd⟩ := execUnlisted_deviceOnly w (takeByte rest s)
    obtain rfl := Host.Outcome.next.inj (he.symm.trans hu)
    exact funcLegal_congr hf hd.func
  · exact exec_funcLegal (s := takeRequest p rest s) hc hf he
  · exact hf

end

/-! ## The DDRAM after block reset (R36) -/

theorem full_reset : Mem.full State.reset.dev.ddram := by
  rw [State.reset, Device.arbitrary_ddram]
  exact full_arbitrary 0

/-! ## The steps of an operation as the calls of its step list (R28) -/

/-- One call of an expanded step list, with the frame its bytes belong to, which a row does not name. -/
structure Call where
  row   : CallRow
  frame : Frame

/-- `FUNC` becomes the row's, then its capability call is made. -/
def makeCall (c : Call) (s : State) : Run :=
  match c.row.event with
  | .rst level => rstSet level (setFunc c.row.func s)
  | .dc level => dcSet level (setFunc c.row.func s)
  | .bus run => busWrite c.frame run (setFunc c.row.func s)
  | .dly us => delay us (setFunc c.row.func s)

/-- The calls in list order, each made only if those before it have returned `ok`. -/
def makeCalls (calls : List Call) : State → Run :=
  match calls with
  | [] => .going
  | c :: rest => fun s => (makeCall c s).andThen (makeCalls rest)

theorem makeCalls_cons (c : Call) (rest : List Call) (s : State) :
    makeCalls (c :: rest) s = (makeCall c s).andThen (makeCalls rest) := rfl

theorem makeCalls_singleton (c : Call) (s : State) : makeCalls [c] s = makeCall c s := by
  rw [makeCalls_cons]
  cases makeCall c s <;> rfl

theorem makeCalls_append (front back : List Call) (s : State) :
    makeCalls (front ++ back) s = (makeCalls front s).andThen (makeCalls back) := by
  induction front generalizing s with
  | nil => rfl
  | cons c rest ih =>
    rw [List.cons_append, makeCalls_cons, makeCalls_cons, andThen_assoc]
    exact congrArg _ (funext ih)

/-! ## What the calls made leave -/

/-- `FUNC` after the calls of a list (R187). -/
def funcAfter (rows : List CallRow) (func : Byte) : Byte :=
  match rows with
  | [] => func
  | row :: rest => funcAfter rest row.func

theorem funcAfter_append (front back : List CallRow) (func : Byte) :
    funcAfter (front ++ back) func = funcAfter back (funcAfter front func) := by
  induction front generalizing func with
  | nil => rfl
  | cons row rest ih => exact ih row.func

theorem funcAfter_mem (rows : List CallRow) (func : Byte) : funcAfter rows func ∈ func :: rows.map CallRow.func := by
  induction rows generalizing func with
  | nil => exact List.mem_cons_self
  | cons row rest ih => exact List.mem_cons_of_mem func (ih row.func)

/-- The state `t` is `s` after these calls, which leave `FUNC` at this value; what they do outside the block is left
open. -/
structure Called (calls : List Event) (func : Byte) (s t : State) : Prop where
  trace : t.trace = s.trace ++ calls
  func : t.func = func
  fb : t.fb = s.fb
  pending : t.pending = s.pending
  responses : t.responses = s.responses
  pst : t.pst = s.pst
  abandonAt : t.abandonAt = s.abandonAt

theorem Called.refl (s : State) : Called [] s.func s s := by
  constructor <;> simp

theorem Called.trans {front back : List Event} {func func' : Byte} {s t u : State} (h : Called front func s t)
    (h' : Called back func' t u) : Called (front ++ back) func' s u where
  trace := by rw [h'.trace, h.trace, List.append_assoc]
  func := h'.func
  fb := h'.fb.trans h.fb
  pending := h'.pending.trans h.pending
  responses := h'.responses.trans h.responses
  pst := h'.pst.trans h.pst
  abandonAt := h'.abandonAt.trans h.abandonAt

/-- The call of the first row, then those of the others. -/
theorem Called.cons {row : CallRow} {rows : List CallRow} {s t u : State} (h : Called [row.event] row.func s t)
    (h' : Called (rows.map CallRow.event) (funcAfter rows t.func) t u) :
    Called ((row :: rows).map CallRow.event) (funcAfter (row :: rows) s.func) s u := by
  rw [h.func] at h'
  exact h.trans h'

/-- What a capability call does outside the block: to the pins, to the bytes on their way to the device, and to the
device. -/
def OutsideOnly (s t : State) : Prop :=
  t = { s with dcPin := t.dcPin, rstPin := t.rstPin, wire := t.wire, dev := t.dev, draws := t.draws }

theorem driveDc_outsideOnly (level : Level) (n : Nat) (s : State) : OutsideOnly s (driveDc level n s) := by
  unfold driveDc
  split <;> rfl

theorem driveRst_outsideOnly (level : Level) (n : Nat) (s : State) : OutsideOnly s (driveRst level n s) := by
  unfold driveRst
  split
  · rfl
  · split <;> rfl

theorem deliver_outsideOnly (frame : Frame) (run : List Byte) (n : Nat) (s : State) :
    OutsideOnly s (deliver frame run n s) := rfl

theorem Called.outside {calls : List Event} {func : Byte} {s t u : State} (h : Called calls func s t)
    (hu : OutsideOnly t u) : Called calls func s u := by
  rw [hu]
  exact ⟨h.trace, h.func, h.fb, h.pending, h.responses, h.pst, h.abandonAt⟩

theorem Called.advance {calls : List Event} {func : Byte} {s t : State} (h : Called calls func s t) :
    Called calls func s (advance t) :=
  ⟨h.trace, h.func, h.fb, h.pending, h.responses, h.pst, h.abandonAt⟩

theorem Called.of_accept {i : Instr} {calls : List Event} {func : Byte} {s t : State}
    (h : Called calls func (accept i s) t) : Called calls func s t :=
  ⟨h.trace, h.func, h.fb, h.pending, h.responses, h.pst, h.abandonAt⟩

theorem called_record (row : CallRow) (answers : List Answer) (draws : Nat) (s : State) :
    Called [row.event] row.func s
      { record row.event (setFunc row.func s) with answers := answers, draws := draws } := by
  constructor <;> simp

/-- Whatever the environment answers, a call leaves what its row says. -/
theorem makeCall_called (c : Call) (s : State) : (makeCall c s).Holds (Called [c.row.event] c.row.func s) := by
  obtain ⟨⟨ev, func⟩, frame⟩ := c
  have recorded (as : List Answer) (n : Nat) := called_record ⟨ev, func⟩ as n s
  cases ev with
  | rst level =>
    exact capabilityCall_holds recorded (fun n t h => h.outside (driveRst_outsideOnly level n t))
      fun _ => Called.advance
  | dc level =>
    exact capabilityCall_holds recorded (fun n t h => h.outside (driveDc_outsideOnly level n t))
      fun _ => Called.advance
  | bus run =>
    exact capabilityCall_holds recorded (fun n t h => h.outside (deliver_outsideOnly frame run n t))
      fun _ => Called.advance
  | dly us =>
    show (delay us (setFunc func s)).Holds _
    obtain ⟨as, n, e | e⟩ := delay_cases us (setFunc func s) <;> rw [e]
    · exact goOn_holds (recorded as n).advance
    · exact recorded as n

/-- Calls that have all returned `ok` have all been made. -/
theorem makeCalls_going {calls : List Call} {s t : State} (h : makeCalls calls s = .going t) :
    Called ((calls.map Call.row).map CallRow.event) (funcAfter (calls.map Call.row) s.func) s t := by
  induction calls generalizing s with
  | nil => exact Run.going.inj h ▸ Called.refl s
  | cons c rest ih =>
    have first := makeCall_called c s
    rw [makeCalls_cons] at h
    cases hc : makeCall c s with
    | going u =>
      rw [hc] at h first
      have hu : Called [c.row.event] c.row.func s u := first
      exact hu.cons (ih h)
    | raised | abandoned | waiting => rw [hc] at h; exact nomatch h

/-- The state `t` is `s` after the first calls of these rows, none or all of them included. -/
def CalledFirst (rows : List CallRow) (s t : State) : Prop :=
  ∃ done, done <+: rows ∧ Called (done.map CallRow.event) (funcAfter done s.func) s t

/-- A weaker property holds too. -/
theorem Run.Holds.mono {P Q : State → Prop} {r : Run} (h : r.Holds P) (hPQ : ∀ s, P s → Q s) : r.Holds Q := by
  cases r with
  | going s | raised k e s | abandoned s | waiting s => exact hPQ s h

/-- What holds where the first steps have stopped, and after the next where they have gone on. -/
theorem Run.Holds.andThen_of {P Q : State → Prop} {r : Run} {f : State → Run} (h : r.Holds P)
    (stopped : ∀ s, P s → Q s) (gone : ∀ s, P s → (f s).Holds Q) : (r.andThen f).Holds Q := by
  cases r with
  | going s => exact gone s h
  | raised k e s | abandoned s | waiting s => exact stopped s h

/-- Whatever the environment answers, an operation makes the first calls of its step list. -/
theorem makeCalls_calledFirst (calls : List Call) (s : State) :
    (makeCalls calls s).Holds (CalledFirst (calls.map Call.row) s) := by
  induction calls generalizing s with
  | nil => exact ⟨[], List.nil_prefix, Called.refl s⟩
  | cons c rest ih =>
    have one : [c.row] <+: (c :: rest).map Call.row := ⟨rest.map Call.row, rfl⟩
    refine (makeCall_called c s).andThen_of (fun t h => ⟨[c.row], one, h⟩) fun t h => (ih t).mono ?_
    rintro u ⟨done, hp, hd⟩
    exact ⟨c.row :: done, List.cons_prefix_cons.2 ⟨rfl, hp⟩, h.cons hd⟩

/-! ## A list of steps that makes the calls of these rows -/

/-- From a state with this `FUNC`, the steps make the calls of these rows, in order. -/
def MakesCalls (func : Byte) (rows : List CallRow) (steps : State → Run) : Prop :=
  ∃ calls : List Call, calls.map Call.row = rows ∧ ∀ s, s.func = func → steps s = makeCalls calls s

section
variable {func : Byte} {rows : List CallRow} {steps : State → Run}

theorem MakesCalls.congr {steps' : State → Run} (h : MakesCalls func rows steps)
    (e : ∀ s, s.func = func → steps' s = steps s) : MakesCalls func rows steps' := by
  obtain ⟨calls, hrows, hsteps⟩ := h
  exact ⟨calls, hrows, fun s hs => (e s hs).trans (hsteps s hs)⟩

/-- Steps made one list after the other: the second list begins with the `FUNC` that the first leaves. -/
theorem MakesCalls.andThen {rows' : List CallRow} {steps' : State → Run} (h : MakesCalls func rows steps)
    (h' : MakesCalls (funcAfter rows func) rows' steps') :
    MakesCalls func (rows ++ rows') fun s => (steps s).andThen steps' := by
  obtain ⟨calls, rfl, hsteps⟩ := h
  obtain ⟨calls', rfl, hsteps'⟩ := h'
  refine ⟨calls ++ calls', List.map_append, ?_⟩
  rintro s rfl
  simp only [hsteps s rfl, makeCalls_append]
  cases hr : makeCalls calls s with
  | going t => exact hsteps' t (makeCalls_going hr).func
  | raised | abandoned | waiting => rfl

theorem makesCalls_makeCall (func : Byte) (c : Call) : MakesCalls func [c.row] (makeCall c) :=
  ⟨[c], rfl, fun s _ => (makeCalls_singleton c s).symm⟩

theorem makesCalls_rstSet (func : Byte) (level : Level) : MakesCalls func [⟨.rst level, func⟩] (rstSet level) :=
  (makesCalls_makeCall func ⟨⟨.rst level, func⟩, .data⟩).congr (by rintro s rfl; rfl)

theorem makesCalls_delay (func : Byte) (us : BitVec 32) : MakesCalls func [⟨.dly us, func⟩] (delay us) :=
  (makesCalls_makeCall func ⟨⟨.dly us, func⟩, .data⟩).congr (by rintro s rfl; rfl)

theorem makesCalls_busWrite (func : Byte) (frame : Frame) (run : List Byte) :
    MakesCalls func [⟨.bus run, func⟩] (busWrite frame run) :=
  (makesCalls_makeCall func ⟨⟨.bus run, func⟩, frame⟩).congr (by rintro s rfl; rfl)

/-- `FUNC` is written before the frame's first call (D13). -/
theorem makesCalls_sendFunc (func v : Byte) : MakesCalls func (cmdRows v v) (sendFunc v) :=
  (makesCalls_makeCall func ⟨⟨.dc .low, v⟩, .functionSet⟩).andThen (makesCalls_busWrite v .functionSet [v])

theorem makesCalls_cmdFrame (func : Byte) (frame : Frame) (b : Byte) :
    MakesCalls func (cmdRows b func) (cmdFrame frame b) :=
  ((makesCalls_makeCall func ⟨⟨.dc .low, func⟩, frame⟩).andThen (makesCalls_busWrite func frame [b])).congr
    (by rintro s rfl; rfl)

theorem makesCalls_dataFrame (func : Byte) (run : List Byte) : MakesCalls func (dataRows run func) (dataFrame run) :=
  ((makesCalls_makeCall func ⟨⟨.dc .high, func⟩, .data⟩).andThen (makesCalls_busWrite func .data run)).congr
    (by rintro s rfl; rfl)

theorem makesCalls_resetSteps (p : Params) (func : Byte) : MakesCalls func (resetRows p func) (resetSteps p) :=
  (makesCalls_rstSet func _).andThen <|
  (makesCalls_delay func _).andThen <|
  (makesCalls_rstSet func _).andThen <|
  (makesCalls_delay func _).andThen <|
  (makesCalls_rstSet func _).andThen <|
  makesCalls_delay func _

/-- A Function Set frame of a value read off `FUNC` (R188). -/
theorem makesCalls_changeFunc (func : Byte) (change : Byte → Byte) :
    MakesCalls func (cmdRows (change func) (change func)) fun s => sendFunc (change s.func) s :=
  (makesCalls_sendFunc func (change func)).congr (by rintro s rfl; rfl)

theorem makesCalls_addressingSteps (horizontal : Bool) (func : Byte) :
    MakesCalls func (addressingRows horizontal func) (addressingSteps horizontal) :=
  makesCalls_changeFunc func (withHorizontal · horizontal)

theorem makesCalls_contrastSteps (contrast bias temp func : Byte) :
    MakesCalls func (contrastRows contrast bias temp func) (contrastSteps contrast bias temp) :=
  (makesCalls_changeFunc func withExtended).andThen <|
  (makesCalls_cmdFrame _ .temp temp).andThen <|
  (makesCalls_cmdFrame _ .bias bias).andThen <|
  (makesCalls_cmdFrame _ .setVop (vopByte contrast)).andThen <|
  makesCalls_changeFunc _ withBasic

theorem makesCalls_positionSteps (p : Params) (x y func : Byte) :
    MakesCalls func (positionRows p x y func) (positionSteps p x y) :=
  (makesCalls_cmdFrame func .setX _).andThen (makesCalls_cmdFrame func .setY _)

theorem makesCalls_clearSteps (p : Params) (func : Byte) : MakesCalls func (clearRows p func) (clearSteps p) :=
  (makesCalls_dataFrame func _).andThen (makesCalls_positionSteps p 0 0 func)

/-- The first Function Set frame of `lcd.init` is that of the restored default (R186). -/
theorem makesCalls_initSteps (p : Params) (func : Byte) : MakesCalls func (initRows p) (initSteps p) :=
  have restored := (makesCalls_sendFunc func (withHorizontal p.funcReset true)).congr
    (steps' := fun s => addressingSteps true (setFunc p.funcReset s)) fun _ _ => rfl
  restored.andThen <|
  (makesCalls_contrastSteps p.initVop p.initBias p.initTemp _).andThen <|
  (makesCalls_cmdFrame _ .displayNormal _).andThen <|
  makesCalls_clearSteps p _

end

/-- The steps of a Controller operation matter only from where it is accepted. -/
theorem operation_congr {i : Instr} {onOk : Ghosts → Ghosts} {steps steps' : State → Run} {s : State}
    (h : steps (accept i s) = steps' (accept i s)) : operation i onOk steps s = operation i onOk steps' s := by
  rw [operation_next, operation_next]
  rcases goOn_cases (accept i s) with e | e <;> rw [e]
  · rw [andThen_going, andThen_going, h]
  · rfl

/-- Every operation of the Controller is steps that make the calls of its step list (R28, R187). -/
theorem exec_controllerOp {i : Instr} {s : State} {rows : List CallRow} (h : stepList s.cfg i s.func = some rows) :
    ∃ onOk steps, MakesCalls s.func rows steps ∧ exec i s = operation i onOk steps s := by
  cases i with
  | lcdReset => cases h; exact ⟨_, _, makesCalls_resetSteps s.cfg s.func, rfl⟩
  | lcdInit => cases h; exact ⟨_, _, makesCalls_initSteps s.cfg s.func, rfl⟩
  | lcdAddressingHorizontal horizontal => cases h; exact ⟨_, _, makesCalls_addressingSteps horizontal s.func, rfl⟩
  | lcdContrast contrast bias temp => cases h; exact ⟨_, _, makesCalls_contrastSteps contrast bias temp s.func, rfl⟩
  | lcdPosition x y => cases h; exact ⟨_, _, makesCalls_positionSteps s.cfg x y s.func, rfl⟩
  | lcdClear => cases h; exact ⟨_, _, makesCalls_clearSteps s.cfg s.func, rfl⟩
  | lcdData run => cases h; exact ⟨_, _, makesCalls_dataFrame s.func run, rfl⟩
  | _ => exact nomatch h

/-- So it is the calls of its step list, in order. -/
theorem exec_makesCalls {i : Instr} {s : State} {rows : List CallRow} (h : stepList s.cfg i s.func = some rows) :
    ∃ onOk calls, calls.map Call.row = rows ∧ exec i s = operation i onOk (makeCalls calls) s := by
  obtain ⟨onOk, steps, ⟨calls, hrows, hsteps⟩, he⟩ := exec_controllerOp h
  exact ⟨onOk, calls, hrows, he.trans (operation_congr (hsteps _ rfl))⟩

/-- Whatever the environment answers or abandons, an operation of the Controller has made the first calls of its step
list, and left `FUNC` as after them (R244, R249). -/
theorem exec_calledFirst {i : Instr} {s t : State} {rows : List CallRow} (h : stepList s.cfg i s.func = some rows)
    (he : exec i s = .next t) :
    ∃ done, done <+: rows ∧ t.trace = s.trace ++ done.map CallRow.event ∧ t.func = funcAfter done s.func ∧ t.fb = s.fb ∧
      t.pending = s.pending := by
  obtain ⟨onOk, calls, rfl, e⟩ := exec_makesCalls h
  rw [e, operation_next] at he
  obtain rfl := Host.Outcome.next.inj he
  have made : ((goOn (accept i s)).andThen (makeCalls calls)).Holds (CalledFirst (calls.map Call.row) (accept i s)) :=
    (goOn_holds (P := (· = accept i s)) rfl).andThen_of (by rintro _ rfl; exact ⟨[], List.nil_prefix, Called.refl _⟩)
      (by rintro _ rfl; exact makeCalls_calledFirst calls _)
  cases hr : (goOn (accept i s)).andThen (makeCalls calls) with
  | going u | raised k e u | abandoned u | waiting u =>
    rw [hr] at made
    obtain ⟨done, hp, hd⟩ := made
    exact ⟨done, hp, hd.trace, hd.func, hd.fb, hd.pending⟩

/-! ## Which values `FUNC` takes (R23) -/

theorem exec_func_mem {i : Instr} {s t : State} {rows : List CallRow} (h : stepList s.cfg i s.func = some rows)
    (he : exec i s = .next t) : t.func ∈ s.func :: rows.map CallRow.func := by
  obtain ⟨done, hp, -, hf, -⟩ := exec_calledFirst h he
  rw [hf]
  exact List.cons_subset_cons _ (List.map_subset _ hp.subset) (funcAfter_mem done s.func)

theorem stepList_of_controllerOp {i : Instr} (h : isControllerOp i = true) (p : Params) (func : Byte) :
    ∃ rows, stepList p i func = some rows := by
  cases i with
  | lcdReset | lcdInit | lcdAddressingHorizontal | lcdContrast | lcdPosition | lcdClear | lcdData => exact ⟨_, rfl⟩
  | _ => exact Bool.noConfusion h

theorem exec_controllerOp_next {i : Instr} (h : isControllerOp i = true) (s : State) : ∃ t, exec i s = .next t := by
  cases i with
  | lcdReset | lcdInit | lcdAddressingHorizontal | lcdContrast | lcdPosition | lcdClear | lcdData => exact ⟨_, rfl⟩
  | _ => exact Bool.noConfusion h

theorem withHorizontal_base (func : Byte) (horizontal : Bool) :
    withHorizontal func horizontal &&& 0xFC = func &&& 0xFC := by
  revert func horizontal
  decide

theorem withExtended_base (func : Byte) : withExtended func &&& 0xFC = func &&& 0xFC := by
  revert func
  decide

theorem withBasic_base (func : Byte) : withBasic func &&& 0xFC = func &&& 0xFC := by
  revert func
  decide

theorem exec_addressing_func {horizontal : Bool} {s t : State}
    (he : exec (.lcdAddressingHorizontal horizontal) s = .next t) :
    t.func = s.func ∨ t.func = withHorizontal s.func horizontal := by
  simpa [addressingRows, cmdRows] using exec_func_mem rfl he

theorem exec_contrast_func {contrast bias temp : Byte} {s t : State}
    (he : exec (.lcdContrast contrast bias temp) s = .next t) :
    t.func = s.func ∨ t.func = withExtended s.func ∨ t.func = withBasic (withExtended s.func) := by
  simpa [contrastRows, cmdRows] using exec_func_mem rfl he

theorem exec_init_func {s t : State} (he : exec .lcdInit s = .next t) :
    let restored := withHorizontal s.cfg.funcReset true
    t.func = s.func ∨ t.func = restored ∨ t.func = withExtended restored ∨
      t.func = withBasic (withExtended restored) := by
  simpa [initRows, addressingRows, contrastRows, clearRows, positionRows, dataRows, cmdRows] using exec_func_mem rfl he

/-- `lcd.init` begins with horizontal addressing, the basic set and power-down clear (R186, D7). -/
theorem restored_of_legal {p : Params} (h : p.legal = true) : withHorizontal p.funcReset true = 0x20 := by
  rcases funcReset_of_legal h with e | e <;> rw [e] <;> rfl

theorem exec_init_func_of_legal {s t : State} (hc : s.cfg.legal = true) (he : exec .lcdInit s = .next t) :
    t.func = s.func ∨ t.func = 0x20 ∨ t.func = 0x21 := by
  have h := exec_init_func he
  rw [restored_of_legal hc] at h
  rcases h with h | h | h | h
  · exact .inl h
  · exact .inr (.inl h)
  · exact .inr (.inr h)
  · exact .inr (.inl h)

/-- An instruction that is none of the three writers leaves `FUNC` (R23). -/
theorem exec_func_of_no_writer {i : Instr} {s t : State} (he : exec i s = .next t) (hinit : i ≠ .lcdInit)
    (haddressing : ∀ h, i ≠ .lcdAddressingHorizontal h) (hcontrast : ∀ v b c, i ≠ .lcdContrast v b c) :
    t.func = s.func := by
  rcases kind_of_exec_next he with hi | hi | hi
  · exact exec_frameBufferOp_func hi he
  · cases i with
    | lcdReset => simpa [resetRows] using exec_func_mem rfl he
    | lcdPosition x y => simpa [positionRows, cmdRows] using exec_func_mem rfl he
    | lcdClear => simpa [clearRows, dataRows, positionRows, cmdRows] using exec_func_mem rfl he
    | lcdData run => simpa [dataRows] using exec_func_mem rfl he
    | lcdInit => exact absurd rfl hinit
    | lcdAddressingHorizontal h => exact absurd rfl (haddressing h)
    | lcdContrast v b c => exact absurd rfl (hcontrast v b c)
    | _ => exact Bool.noConfusion hi
  · exact exec_busInstr_func hi he

/-- `BASE` and `PD` are written by `lcd.init` alone. -/
theorem exec_func_base {i : Instr} {s t : State} (he : exec i s = .next t) (hinit : i ≠ .lcdInit) :
    t.func &&& 0xFC = s.func &&& 0xFC := by
  by_cases haddressing : ∃ h, i = .lcdAddressingHorizontal h
  · obtain ⟨h, rfl⟩ := haddressing
    rcases exec_addressing_func he with e | e <;> rw [e]
    exact withHorizontal_base ..
  by_cases hcontrast : ∃ v b c, i = .lcdContrast v b c
  · obtain ⟨v, b, c, rfl⟩ := hcontrast
    rcases exec_contrast_func he with e | e | e <;> rw [e]
    · exact withExtended_base _
    · rw [withBasic_base, withExtended_base]
  · rw [exec_func_of_no_writer he hinit (by simpa using haddressing) (by simpa using hcontrast)]

/-! ## The calls of `lcd.init` (R185) -/

theorem initRows_no_reset_no_delay (p : Params) {ev : Event} (h : ev ∈ (initRows p).map CallRow.event) :
    (∀ l, ev ≠ .rst l) ∧ ∀ n, ev ≠ .dly n := by
  cases ev with
  | dc | bus => exact ⟨nofun, nofun⟩
  | rst | dly => simp [initRows, addressingRows, contrastRows, clearRows, positionRows, dataRows, cmdRows] at h

/-! ## The calls under a list of answers (R244) -/

/-- An operation that has come to this end. -/
def Ending.toRun (ending : Ending) (s : State) : Run :=
  match ending with
  | .ok => .going s
  | .error k e => .raised k e s
  | .waiting => .waiting s

theorem toRun_andThen_of_stop {ending : Ending} (h : ending ≠ .ok) (s : State) (f : State → Run) :
    (ending.toRun s).andThen f = ending.toRun s := by
  cases ending with
  | ok => exact absurd rfl h
  | error | waiting => rfl

/-- How one call ends (R164, R165, R240). -/
def endingOf (ev : Event) (a : Answer) : Ending :=
  match a with
  | .ok => .ok
  | .fail e _ =>
    match errorOf ev with
    | some k => .error k e
    | none => .ok
  | .never _ => .waiting

theorem play_cons_ok {row : CallRow} {a : Answer} (h : endingOf row.event a = .ok) (rest : List CallRow)
    (more : List Answer) (func : Byte) :
    play (row :: rest) (a :: more) func = before row (play rest more row.func) := by
  cases a with
  | ok => rfl
  | fail e d => cases he : errorOf row.event <;> simp_all [endingOf, play]
  | never d => exact nomatch h

theorem play_cons_stop {row : CallRow} {a : Answer} (h : endingOf row.event a ≠ .ok) (rest : List CallRow)
    (more : List Answer) (func : Byte) :
    play (row :: rest) (a :: more) func = ⟨[row.event], row.func, endingOf row.event a⟩ := by
  cases a with
  | ok => exact absurd rfl h
  | fail e d => cases he : errorOf row.event <;> simp_all [endingOf, play]
  | never d => rfl

/-- A call that can fail, under its answer. -/
theorem capabilityCall_answered {ev : Event} {kind : ErrKind} {units : Nat} {effect : Nat → State → State} {s : State}
    {a : Answer} {more : List Answer} (hk : errorOf ev = some kind) (heffect : ∀ n t, OutsideOnly t (effect n t))
    (ha : s.answers = a :: more) (hplan : s.abandonAt = none) :
    ∃ t, OutsideOnly { record ev s with answers := more } t ∧
      capabilityCall ev kind units effect s =
        (endingOf ev a).toRun (if endingOf ev a = .ok then advance t else t) := by
  cases a with
  | ok =>
    have outside := heffect units { record ev s with answers := more }
    refine ⟨_, outside, (capabilityCall_ok ha).trans (goOn_of_not_abandoned ?_)⟩
    rw [outside]
    exact hplan
  | fail e d => exact ⟨_, heffect (min d units) _, by simp [capabilityCall_fail ha, endingOf, hk, Ending.toRun]⟩
  | never d => exact ⟨_, heffect (min d units) _, by simp [capabilityCall_never ha, endingOf, Ending.toRun]⟩

theorem delay_answered {us : BitVec 32} {s : State} {a : Answer} {more : List Answer} (ha : s.answers = a :: more)
    (hplan : s.abandonAt = none) :
    ∃ t, OutsideOnly { record (.dly us) s with answers := more } t ∧
      delay us s = (endingOf (.dly us) a).toRun (if endingOf (.dly us) a = .ok then advance t else t) := by
  refine ⟨{ record (.dly us) s with answers := more }, rfl, ?_⟩
  rw [delay, takeAnswer_of_cons (s := record (.dly us) s) ha]
  cases a with
  | ok => exact goOn_of_not_abandoned hplan
  | fail e d => exact goOn_of_not_abandoned hplan
  | never d => rfl

/-- A call of a step list, under its answer. -/
theorem makeCall_answered {c : Call} {s : State} {a : Answer} {more : List Answer} (ha : s.answers = a :: more)
    (hplan : s.abandonAt = none) :
    ∃ t, OutsideOnly { record c.row.event (setFunc c.row.func s) with answers := more } t ∧
      makeCall c s =
        (endingOf c.row.event a).toRun (if endingOf c.row.event a = .ok then advance t else t) := by
  obtain ⟨⟨ev, func⟩, frame⟩ := c
  cases ev with
  | rst level => exact capabilityCall_answered (s := setFunc func s) rfl (driveRst_outsideOnly level) ha hplan
  | dc level => exact capabilityCall_answered (s := setFunc func s) rfl (driveDc_outsideOnly level) ha hplan
  | bus run => exact capabilityCall_answered (s := setFunc func s) rfl (deliver_outsideOnly frame run) ha hplan
  | dly us => exact delay_answered (s := setFunc func s) ha hplan

theorem Called.of_record {row : CallRow} {more : List Answer} {s t : State}
    (h : OutsideOnly { record row.event (setFunc row.func s) with answers := more } t) :
    Called [row.event] row.func s t ∧ t.answers = more ∧ t.seq = s.seq :=
  ⟨(called_record row more s.draws s).outside h, by rw [h], by rw [h]; rfl⟩

/-- A list of calls does what `play` says of its rows; if the last call made has not returned, the sequencer stands at
it. -/
theorem makeCalls_play {calls : List Call} {s : State} {k : Position} (hplan : s.abandonAt = none)
    (hseq : s.seq = some k) (hlen : calls.length ≤ s.answers.length) :
    let p := play (calls.map Call.row) s.answers s.func
    ∃ t, makeCalls calls s = p.ends.toRun t ∧ Called p.calls p.func s t ∧
      (p.ends = .waiting → t.seq.map Position.next = some { op := k.op, index := k.index + p.calls.length }) := by
  induction calls generalizing s k with
  | nil => exact ⟨s, rfl, Called.refl s, nofun⟩
  | cons c rest ih =>
    obtain ⟨a, more, ha⟩ : ∃ a more, s.answers = a :: more := List.exists_cons_of_length_pos (Nat.zero_lt_of_lt hlen)
    obtain ⟨t, outside, hcall⟩ := makeCall_answered (c := c) ha hplan
    obtain ⟨called, hmore, hstay⟩ := Called.of_record outside
    rw [ha, List.map_cons, makeCalls_cons]
    by_cases hok : endingOf c.row.event a = .ok
    · have going : makeCall c s = .going (advance t) := by rw [hcall, hok]; rfl
      have hlen' : rest.length ≤ (advance t).answers.length := by
        rw [advance_answers, hmore]
        simpa [ha] using hlen
      obtain ⟨u, hrun, hu, hwait⟩ := ih (s := advance t) (k := k.next) (called.abandonAt.trans hplan)
        (by rw [advance_seq, hstay, hseq]; rfl) hlen'
      rw [advance_answers, hmore, advance_func, called.func] at hrun hu hwait
      rw [play_cons_ok hok, going, andThen_going]
      refine ⟨u, hrun, called.advance.trans hu, fun hw => ?_⟩
      rw [hwait hw]
      simp [before, Position.next, Nat.add_assoc, Nat.add_comm]
    · rw [play_cons_stop hok, hcall, if_neg hok]
      exact ⟨t, toRun_andThen_of_stop hok t _, called, fun _ => by rw [hstay, hseq]; rfl⟩

/-- The sequencer stands at the call before the one it would move to. -/
theorem position_of_next {seq : Option Position} {i : Instr} {n : Nat}
    (h : seq.map Position.next = some { op := i, index := n }) : seq = some { op := i, index := n - 1 } := by
  cases seq with
  | none => exact nomatch h
  | some k =>
    obtain ⟨rfl, rfl⟩ := Position.mk.inj (Option.some.inj h)
    rfl

/-- With no plan to abandon it, an operation of the Controller does what `play` says of its step list. -/
theorem exec_play {i : Instr} {s : State} {rows : List CallRow} (h : stepList s.cfg i s.func = some rows)
    (hplan : s.abandonAt = none) (hlen : rows.length ≤ s.answers.length) :
    let p := play rows s.answers s.func
    ∃ onOk t, exec i s = .next (conclude onOk (p.ends.toRun t)) ∧ Called p.calls p.func s t ∧
      (p.ends = .waiting → t.seq = some { op := i, index := p.calls.length - 1 }) := by
  obtain ⟨onOk, calls, rfl, he⟩ := exec_makesCalls h
  obtain ⟨t, hrun, ht, hwait⟩ := makeCalls_play (s := accept i s) hplan rfl (by simpa using hlen)
  refine ⟨onOk, t, ?_, ht.of_accept, fun hw => ?_⟩
  · rw [he, operation_of_not_abandoned hplan, hrun]
    rfl
  · exact position_of_next ((hwait hw).trans (by simp))

/-- A list of which all calls but the last return `ok`, and the last never. -/
theorem play_never {rows : List CallRow} {n : Nat} (h : rows.length = n + 1) (d : Nat) (rest : List Answer)
    (func : Byte) :
    (play rows (List.replicate n .ok ++ .never d :: rest) func).ends = .waiting ∧
      (play rows (List.replicate n .ok ++ .never d :: rest) func).calls = rows.map CallRow.event := by
  induction n generalizing rows func with
  | zero =>
    obtain ⟨row, rfl⟩ := List.length_eq_one_iff.1 h
    exact ⟨rfl, rfl⟩
  | succ n ih =>
    obtain ⟨row, more, rfl⟩ := List.exists_cons_of_length_eq_add_one h
    obtain ⟨hends, hcalls⟩ := ih (Nat.succ.inj h) row.func
    exact ⟨hends, congrArg (row.event :: ·) hcalls⟩

/-- The first calls of an operation decide it, if one of them does not return. -/
theorem makeCalls_of_take {calls : List Call} {s t : State} {n : Nat} (h : makeCalls (calls.take n) s = .waiting t) :
    makeCalls calls s = .waiting t := by
  rw [← List.take_append_drop n calls, makeCalls_append, h, andThen_waiting]

/-- An operation of which the `n`-th call never returns stands at that call, with the calls up to it made. -/
theorem exec_never {i : Instr} {s : State} {rows : List CallRow} {n d : Nat} {rest : List Answer}
    (h : stepList s.cfg i s.func = some rows) (hplan : s.abandonAt = none) (hn : n < rows.length)
    (ha : s.answers = List.replicate n .ok ++ .never d :: rest) :
    ∃ t func, exec i s = .next t ∧ Called ((rows.take (n + 1)).map CallRow.event) func s t ∧
      t.seq = some { op := i, index := n } := by
  obtain ⟨onOk, calls, rfl, he⟩ := exec_makesCalls h
  have hlen : (calls.take (n + 1)).length ≤ (accept i s).answers.length := by simp [ha]
  obtain ⟨t, hrun, ht, hwait⟩ := makeCalls_play (s := accept i s) hplan rfl hlen
  have hlast : ((calls.map Call.row).take (n + 1)).length = n + 1 := List.length_take_of_le hn
  obtain ⟨hends, hcalls⟩ := play_never hlast d rest s.func
  rw [accept_answers, accept_func, ha, List.map_take] at hrun ht hwait
  rw [hends] at hrun
  rw [hcalls] at ht hwait
  refine ⟨t, _, ?_, ht.of_accept, ?_⟩
  · rw [he, operation_of_not_abandoned hplan, makeCalls_of_take hrun, conclude_waiting]
  · have hpos := position_of_next (hwait hends)
    rwa [List.length_map, hlast, Nat.zero_add] at hpos

theorem step_of_stuck {s : State} {k : Position} (hw : s.wire = []) (hs : s.seq = some k) :
    step s = .fault .capabilityCallNeverReturned := by
  simp [step, fetch, hw, hs]

/-! ## Two runs of an operation (R20, R22) -/

/-- The relation says that two states agree in everything an operation of the Controller reads, and every update it is
made of keeps the relation; a bus write only under the same level of command/data-select, which its frame has driven. -/
structure KeptBetween (R : State → State → Prop) : Prop where
  reads : ∀ {s t}, R s t → t.cfg = s.cfg ∧ t.func = s.func ∧ t.seq = s.seq ∧ t.answers = s.answers ∧
    t.abandonAt = s.abandonAt ∧ t.draws = s.draws
  onAccept : ∀ {s t} i, R s t → R (accept i s) (accept i t)
  onCall : ∀ {s t} ev as n, R s t →
    R { record ev s with answers := as, draws := n } { record ev t with answers := as, draws := n }
  onDriveDc : ∀ {s t} level n, R s t → R (driveDc level n s) (driveDc level n t)
  onDriveRst : ∀ {s t} level n, R s t → R (driveRst level n s) (driveRst level n t)
  onDeliver : ∀ {s t} frame run n, R s t → t.dcPin = s.dcPin → R (deliver frame run n s) (deliver frame run n t)
  onAdvance : ∀ {s t}, R s t → R (advance s) (advance t)
  onSetFunc : ∀ {s t} v, R s t → R (setFunc v s) (setFunc v t)
  onComplete : ∀ {s t} onOk, R s t → R (complete onOk s) (complete onOk t)
  onAbort : ∀ {s t} k e, R s t → R (abort k e s) (abort k e t)
  onAbandon : ∀ {s t}, R s t → R (abandon s) (abandon t)

/-- Two runs have come equally far: to states related by `G` if they go on, by `R` if they have stopped. -/
inductive Run.Related (G R : State → State → Prop) : Run → Run → Prop
  | going {s t} : G s t → Related G R (.going s) (.going t)
  | raised {s t} (k : ErrKind) (e : ErrVal) : R s t → Related G R (.raised k e s) (.raised k e t)
  | abandoned {s t} : R s t → Related G R (.abandoned s) (.abandoned t)
  | waiting {s t} : R s t → Related G R (.waiting s) (.waiting t)

theorem Run.Related.andThen {G G' R : State → State → Prop} {r r' : Run} {f f' : State → Run} (h : r.Related G R r')
    (hf : ∀ {s t}, G s t → (f s).Related G' R (f' t)) : (r.andThen f).Related G' R (r'.andThen f') := by
  cases h with
  | going h => exact hf h
  | raised k e h => exact .raised k e h
  | abandoned h => exact .abandoned h
  | waiting h => exact .waiting h

namespace KeptBetween

variable {R G : State → State → Prop} (hR : KeptBetween R) {s t : State}
include hR

theorem goOn_related (h : R s t) (hG : G s t) : (goOn s).Related G R (goOn t) := by
  obtain ⟨-, -, hseq, -, hplan, -⟩ := hR.reads h
  have due : abandonDue t = abandonDue s := by rw [abandonDue, abandonDue, hseq, hplan]
  unfold goOn
  rw [due]
  split
  · exact .abandoned h
  · exact .going hG

/-- Both runs take the same answer. -/
theorem takeAnswer_related (ev : Event) (h : R s t) :
    ∃ a as n, takeAnswer (record ev s) = (a, { record ev s with answers := as, draws := n }) ∧
      takeAnswer (record ev t) = (a, { record ev t with answers := as, draws := n }) := by
  obtain ⟨-, -, -, hans, -, hdraws⟩ := hR.reads h
  unfold takeAnswer
  rw [record_answers, record_answers, record_draws, record_draws, hans, hdraws]
  cases s.answers with
  | nil => exact ⟨_, _, _, rfl, by simp⟩
  | cons a rest => exact ⟨a, rest, s.draws, rfl, rfl⟩

/-- A capability call keeps the relation, if its effect on the states in which it is answered does. -/
theorem capabilityCall_related {ev : Event} {kind : ErrKind} {units : Nat} {effect : Nat → State → State} (h : R s t)
    (heffect : ∀ as m n, R (effect n { record ev s with answers := as, draws := m })
      (effect n { record ev t with answers := as, draws := m }))
    (hG : ∀ as m, G (advance (effect units { record ev s with answers := as, draws := m }))
      (advance (effect units { record ev t with answers := as, draws := m }))) :
    (capabilityCall ev kind units effect s).Related G R (capabilityCall ev kind units effect t) := by
  obtain ⟨a, as, m, hs, ht⟩ := hR.takeAnswer_related ev h
  unfold capabilityCall
  rw [hs, ht]
  cases a with
  | ok => exact hR.goOn_related (hR.onAdvance (heffect as m units)) (hG as m)
  | fail e d => exact .raised kind e (heffect as m _)
  | never d => exact .waiting (heffect as m _)

theorem rstSet_related (level : Level) (h : R s t) : (rstSet level s).Related R R (rstSet level t) :=
  have moved as m n := hR.onDriveRst level n (hR.onCall (.rst level) as m h)
  hR.capabilityCall_related h moved fun as m => hR.onAdvance (moved as m 1)

/-- A drive of command/data-select that has returned has brought the pin to the same level in both runs. -/
theorem dcSet_related (level : Level) (h : R s t) :
    (dcSet level s).Related (fun s t => R s t ∧ t.dcPin = s.dcPin) R (dcSet level t) :=
  have moved as m n := hR.onDriveDc level n (hR.onCall (.dc level) as m h)
  hR.capabilityCall_related h moved fun as m => ⟨hR.onAdvance (moved as m 1), rfl⟩

theorem busWrite_related (frame : Frame) (run : List Byte) (h : R s t) (hdc : t.dcPin = s.dcPin) :
    (busWrite frame run s).Related R R (busWrite frame run t) :=
  have delivered as m n := hR.onDeliver frame run n (hR.onCall (.bus run) as m h) hdc
  hR.capabilityCall_related h delivered fun as m => hR.onAdvance (delivered as m run.length)

theorem delay_related (us : BitVec 32) (h : R s t) : (delay us s).Related R R (delay us t) := by
  obtain ⟨a, as, m, hs, ht⟩ := hR.takeAnswer_related (.dly us) h
  have called := hR.onCall (.dly us) as m h
  have advanced := hR.onAdvance called
  unfold delay
  rw [hs, ht]
  cases a with
  | ok => exact hR.goOn_related advanced advanced
  | fail e d => exact hR.goOn_related advanced advanced
  | never d => exact .waiting called

theorem cmdFrame_related (frame : Frame) (b : Byte) (h : R s t) :
    (cmdFrame frame b s).Related R R (cmdFrame frame b t) :=
  (hR.dcSet_related .low h).andThen fun ⟨h, hdc⟩ => hR.busWrite_related frame [b] h hdc

theorem dataFrame_related (run : List Byte) (h : R s t) : (dataFrame run s).Related R R (dataFrame run t) :=
  (hR.dcSet_related .high h).andThen fun ⟨h, hdc⟩ => hR.busWrite_related .data run h hdc

/-- Both runs read the same `FUNC`, so that they send the same value. -/
theorem sendFunc_related (change : Byte → Byte) (h : R s t) :
    (sendFunc (change s.func) s).Related R R (sendFunc (change t.func) t) := by
  obtain ⟨-, hfunc, -⟩ := hR.reads h
  rw [hfunc]
  exact hR.cmdFrame_related .functionSet _ (hR.onSetFunc _ h)

theorem resetSteps_related (p : Params) (h : R s t) : (resetSteps p s).Related R R (resetSteps p t) :=
  (hR.rstSet_related _ h).andThen fun h =>
  (hR.delay_related _ h).andThen fun h =>
  (hR.rstSet_related _ h).andThen fun h =>
  (hR.delay_related _ h).andThen fun h =>
  (hR.rstSet_related _ h).andThen fun h =>
  hR.delay_related _ h

theorem addressingSteps_related (horizontal : Bool) (h : R s t) :
    (addressingSteps horizontal s).Related R R (addressingSteps horizontal t) :=
  hR.sendFunc_related (withHorizontal · horizontal) h

theorem contrastSteps_related (contrast bias temp : Byte) (h : R s t) :
    (contrastSteps contrast bias temp s).Related R R (contrastSteps contrast bias temp t) :=
  (hR.sendFunc_related withExtended h).andThen fun h =>
  (hR.cmdFrame_related _ _ h).andThen fun h =>
  (hR.cmdFrame_related _ _ h).andThen fun h =>
  (hR.cmdFrame_related _ _ h).andThen fun h =>
  hR.sendFunc_related withBasic h

theorem positionSteps_related (p : Params) (x y : Byte) (h : R s t) :
    (positionSteps p x y s).Related R R (positionSteps p x y t) :=
  (hR.cmdFrame_related _ _ h).andThen fun h => hR.cmdFrame_related _ _ h

theorem clearSteps_related (p : Params) (h : R s t) : (clearSteps p s).Related R R (clearSteps p t) :=
  (hR.dataFrame_related _ h).andThen fun h => hR.positionSteps_related p 0 0 h

theorem initSteps_related (p : Params) (h : R s t) : (initSteps p s).Related R R (initSteps p t) :=
  (hR.addressingSteps_related true (hR.onSetFunc p.funcReset h)).andThen fun h =>
  (hR.contrastSteps_related _ _ _ h).andThen fun h =>
  (hR.cmdFrame_related _ _ h).andThen fun h =>
  hR.clearSteps_related p h

/-- Every ending keeps the relation. -/
theorem conclude_related (onOk : Ghosts → Ghosts) {r r' : Run} (h : r.Related R R r') :
    R (conclude onOk r) (conclude onOk r') := by
  cases h with
  | going h => exact hR.onComplete onOk h
  | raised k e h => exact hR.onAbort k e h
  | abandoned h => exact hR.onAbandon h
  | waiting h => exact h

theorem operation_related {i : Instr} {onOk : Ghosts → Ghosts} {steps : State → Run}
    (hsteps : ∀ {s t}, R s t → (steps s).Related R R (steps t)) (h : R s t) :
    ∃ a b, operation i onOk steps s = .next a ∧ operation i onOk steps t = .next b ∧ R a b := by
  have accepted := hR.onAccept i h
  exact ⟨_, _, rfl, rfl, hR.conclude_related onOk ((hR.goOn_related accepted accepted).andThen hsteps)⟩

/-- Every operation of the Controller keeps the relation, whatever the environment answers. -/
theorem exec_related {i : Instr} (hi : isControllerOp i = true) (h : R s t) :
    ∃ a b, exec i s = .next a ∧ exec i t = .next b ∧ R a b := by
  obtain ⟨hcfg, -⟩ := hR.reads h
  cases i with
  | lcdReset =>
    simp only [exec, execLcdReset, hcfg]
    exact hR.operation_related (hR.resetSteps_related s.cfg) h
  | lcdInit =>
    simp only [exec, execLcdInit, hcfg]
    exact hR.operation_related (hR.initSteps_related s.cfg) h
  | lcdAddressingHorizontal horizontal => exact hR.operation_related (hR.addressingSteps_related horizontal) h
  | lcdContrast contrast bias temp => exact hR.operation_related (hR.contrastSteps_related contrast bias temp) h
  | lcdPosition x y =>
    simp only [exec, execLcdPosition, hcfg]
    exact hR.operation_related (hR.positionSteps_related s.cfg x y) h
  | lcdClear =>
    simp only [exec, execLcdClear, hcfg]
    exact hR.operation_related (hR.clearSteps_related s.cfg) h
  | lcdData run => exact hR.operation_related (hR.dataFrame_related run) h
  | _ => exact Bool.noConfusion hi

end KeptBetween

/-- The states differ in `FB` alone, which is `m` in the second. -/
def DiffersInFb (m : Mem) (s t : State) : Prop :=
  t = setFb m s

/-- No update of a Controller operation reads or writes `FB` (R160). -/
theorem differsInFb_keptBetween (m : Mem) : KeptBetween (DiffersInFb m) where
  reads := by rintro s _ rfl; exact ⟨rfl, rfl, rfl, rfl, rfl, rfl⟩
  onAccept := by rintro s _ i rfl; rfl
  onCall := by rintro s _ ev as n rfl; rfl
  onDriveDc := by
    rintro s _ level n rfl
    unfold DiffersInFb driveDc
    split <;> rfl
  onDriveRst := by
    rintro s _ level n rfl
    unfold DiffersInFb driveRst
    split
    · rfl
    · rw [setFb_cfg]
      split <;> rfl
  onDeliver := by rintro s _ frame run n rfl -; rfl
  onAdvance := by rintro s _ rfl; rfl
  onSetFunc := by rintro s _ v rfl; rfl
  onComplete := by rintro s _ onOk rfl; rfl
  onAbort := by rintro s _ k e rfl; rfl
  onAbandon := by rintro s _ rfl; rfl

/-- The states differ in the device and in the levels of the pins alone. -/
def DiffersInDevice (s t : State) : Prop :=
  t = { s with dev := t.dev, dcPin := t.dcPin, rstPin := t.rstPin }

/-- No update of a Controller operation reads the device or a level, but a bus write the level its frame has driven
(R34). -/
theorem differsInDevice_keptBetween : KeptBetween DiffersInDevice where
  reads := by rintro s t h; rw [h]; exact ⟨rfl, rfl, rfl, rfl, rfl, rfl⟩
  onAccept i h := by rw [h]; rfl
  onCall ev as n h := by rw [h]; rfl
  onDriveDc level n h := by
    unfold driveDc
    split
    · exact h
    · rw [h]; rfl
  onDriveRst level n h := by
    unfold driveRst
    split
    · exact h
    · rw [h]
      split <;> rfl
  onDeliver frame run n h hdc := by
    rw [DiffersInDevice, deliver, deliver, hdc, h]
  onAdvance h := by rw [h]; rfl
  onSetFunc v h := by rw [h]; rfl
  onComplete onOk h := by rw [h]; rfl
  onAbort k e h := by rw [h]; rfl
  onAbandon h := by rw [h]; rfl

end Sys2Proof.Machine

namespace Sys2Proof.Proofs

open Sys2Proof.Machine Sys2Proof.Safety

/-! ## The obligations of 10_state.md -/

/-- Settles O42: every value an operation of the Controller gives `FUNC` is legal, and no other step writes `FUNC`. -/
theorem funcStaysLegal : Obligations.FuncStaysLegal :=
  fun _ _ => step_funcLegal

/-- Settles O11: at reset `FB`, the wire and the trace are empty, and `PST` is not `Ready`. -/
theorem invariantsAtReset : Obligations.InvariantsAtReset := by
  have func : FuncLegal State.reset := .inl rfl
  have memory : MemoryOk State.reset := ⟨wf_fbFill 0x00, full_reset⟩
  have wire : WireOk State.reset := fun _ h => absurd h List.not_mem_nil
  have unknown : State.reset.pst = .unknown := rfl
  exact ⟨func, memory, wire, rfl, fun h => (nomatch unknown.symm.trans h), fun h => absurd unknown h, func, by decide⟩

/-- Settles O7: the calls up to the one that does not return decide the operation, whose position makes a step stop. -/
theorem neverReturningCallHasNoEnd : Obligations.NeverReturningCallHasNoEnd := by
  refine ⟨fun s i rows n d rest hrows hplan hn ha => ?_, fun s k => step_of_stuck⟩
  obtain ⟨t, func, he, ht, hseq⟩ := exec_never hrows hplan hn ha
  exact ⟨t, he, hseq, ht.responses, ht.pst, ht.trace, ht.fb⟩

/-- Settles O33: an operation of the Controller is the calls of its step list, which under a list of answers come to
what `play` says, and its ending is concluded. -/
theorem abortAtFirstFailingCall : Obligations.AbortAtFirstFailingCall := by
  intro s i rows hrows hplan hlen p
  obtain ⟨onOk, t, he, ht, hwait⟩ := exec_play hrows hplan hlen
  refine ⟨_, he, ?_⟩
  cases hends : (play rows s.answers s.func).ends with
  | ok => exact ⟨ht.trace, ht.func, ht.fb, ht.pending, by rw [← ht.responses]; rfl, rfl⟩
  | error k e => exact ⟨ht.trace, ht.func, ht.fb, ht.pending, by rw [← ht.responses]; rfl, rfl, rfl⟩
  | waiting => exact ⟨ht.trace, ht.func, ht.fb, ht.pending, ht.responses, ht.pst, hwait hends⟩

/-- Settles O36: the first calls of the step list leave `FB` and the requests, and a run from another `FB` differs from
it there alone. -/
theorem controllerLeavesFrameBuffer : Obligations.ControllerLeavesFrameBuffer := by
  intro s i hi
  obtain ⟨t, he⟩ := exec_controllerOp_next hi s
  obtain ⟨rows, hrows⟩ := stepList_of_controllerOp hi s.cfg s.func
  obtain ⟨done, -, -, -, hfb, hpending⟩ := exec_calledFirst hrows he
  refine ⟨t, he, hfb, hpending, fun m => ?_⟩
  obtain ⟨a, b, ha, hb, rfl⟩ := (differsInFb_keptBetween m).exec_related hi (s := s) rfl
  obtain rfl := Host.Outcome.next.inj (he.symm.trans ha)
  exact hb

/-- Settles O37: `FUNC` is one of the values of the step list, which only three operations change, and two of these in
the bits `V` and `H` alone. -/
theorem funcWriters : Obligations.FuncWriters := fun _ _ _ he =>
  ⟨exec_func_of_no_writer he, exec_func_base he, fun hi hc => exec_init_func_of_legal hc (hi ▸ he)⟩

/-- Settles O12: block reset by its fields; `lcd.reset` by the frame of its calls; the calls of `lcd.init` are the first
of its step list, which holds no reset write and no delay. -/
theorem threeResets : Obligations.ThreeResets := by
  refine ⟨fun s => ?_, ?_, fun s => ?_, fun s => ?_⟩
  · exact ⟨fun _ _ => rfl, rfl, rfl, rfl, rfl, rfl, rfl, rfl, rfl, rfl, rfl, rfl, rfl⟩
  · intro s hcfg hpending hanswers hdraws
    rw [blockReset_eq, hcfg, hpending, hanswers, hdraws]
    rfl
  · obtain ⟨t, he⟩ := exec_controllerOp_next (i := .lcdReset) rfl s
    obtain ⟨done, -, -, -, hfb, -⟩ := exec_calledFirst rfl he
    exact ⟨t, he, hfb, exec_func_of_no_writer he nofun nofun nofun⟩
  · obtain ⟨t, he⟩ := exec_controllerOp_next (i := .lcdInit) rfl s
    obtain ⟨done, hp, htrace, -⟩ := exec_calledFirst rfl he
    exact ⟨t, _, he, htrace, fun ev hev => initRows_no_reset_no_delay s.cfg ((hp.map _).subset hev)⟩

/-- Settles O40: an operation of the Controller keeps two runs apart in the device and the pins alone; the other
operations of the request port read neither. -/
theorem blockIndependentOfDevice : Obligations.BlockIndependentOfDevice := by
  intro s i d dc rst hi
  have controller (hi : isControllerOp i = true) := differsInDevice_keptBetween.exec_related hi (s := s)
    (t := { s with dev := d, dcPin := dc, rstPin := rst }) rfl
  cases i with
  | fbNew | fbSetPixel | fbClear | fbBytes | reserved0xB | reserved0xCto0xF => rfl
  | lcdReset | lcdInit | lcdAddressingHorizontal | lcdContrast | lcdPosition | lcdClear | lcdData =>
    obtain ⟨a, b, ha, hb, hab⟩ := controller rfl
    rw [ha, hb]
    exact hab
  | functionSet | temp | bias | setVop | setX | setY | displayNormal | dataByte => exact Bool.noConfusion hi

end Sys2Proof.Proofs

end

/-! PROOFS. The obligations of 20_memory.md, after the lemmas they rest on: the form of the two memories; a pixel as one
bit of one byte; what a byte does to the device, and what the device makes of a run of bytes on the wire; the data run
of a whole frame. -/

section

namespace Sys2Proof.Machine

open Sys2Proof.Safety

/-! ## The form of the two memories (R50, R58, R67) -/

/-- The transform's byte index is one of `FB` (R137). -/
theorem pixelIndex_lt (x y : Nat) : pixelIndex x y < Config.bufSize := by
  unfold pixelIndex Config.bufSize
  omega

theorem wf_drawPixel {m : Mem} (x y : Int) (on : Bool) (h : Mem.wf m) : Mem.wf (drawPixel x y on m) := by
  unfold drawPixel
  split
  · exact wf_fbWrite _ h (pixelIndex_lt _ _)
  · exact h

theorem exec_frameBufferOp_memoryOk {i : Instr} {s t : State} (hi : isFrameBufferOp i = true) (h : MemoryOk s)
    (he : exec i s = .next t) : MemoryOk t := by
  obtain ⟨hfb, hdev⟩ := h
  cases i with
  | fbNew => cases he; exact ⟨wf_fbFill 0x00, hdev⟩
  | fbSetPixel x y on => cases he; exact ⟨wf_drawPixel x y on hfb, hdev⟩
  | fbClear on => cases he; exact ⟨wf_fbFill _, hdev⟩
  | fbBytes => cases he; exact ⟨hfb, hdev⟩
  | _ => exact Bool.noConfusion hi

/-- A device of which nothing is known has its 504 cells too. -/
theorem memoryOk_loseDevice {s : State} (h : MemoryOk s) : MemoryOk (loseDevice s) := by
  refine ⟨h.1, ?_⟩
  rw [loseDevice_dev, Device.arbitrary_ddram]
  exact full_arbitrary s.draws

theorem memoryOk_driveDc {s : State} (level : Level) (n : Nat) (h : MemoryOk s) : MemoryOk (driveDc level n s) := by
  unfold driveDc
  split <;> exact h

theorem memoryOk_driveRst {s : State} (level : Level) (n : Nat) (h : MemoryOk s) : MemoryOk (driveRst level n s) := by
  unfold driveRst
  split
  · exact h
  · split
    · exact memoryOk_loseDevice (s := { s with rstPin := level }) h
    · exact h

/-- No operation of the Controller writes a memory, but by making the device an arbitrary one. -/
theorem memoryOk_keptByController : KeptByController MemoryOk where
  onAccept _ _ h := h
  onCall _ _ _ _ h := h
  onDriveDc level n _ h := memoryOk_driveDc level n h
  onDriveRst level n _ h := memoryOk_driveRst level n h
  onDeliver _ _ _ _ h := h
  onAdvance _ h := h
  onHorizontal _ _ h := h
  onExtended _ h := h
  onBasic _ h := h
  onRestore _ h := h
  onComplete _ _ h := h
  onAbort _ _ _ h := h
  onAbandon s h := memoryOk_loseDevice (s := { idle { s with pst := .unknown } with wire := [] }) h

/-! Each effect of a byte keeps the form: a command leaves the DDRAM or makes it arbitrary, a data byte writes a cell
that there is. -/

theorem memoryOk_deviceTakes {effect : State → State} {s : State} (heffect : MemoryOk (effect s)) (h : MemoryOk s) :
    MemoryOk (deviceTakes effect s) := by
  by_cases hr : s.rstPin = s.cfg.rstActive
  · rw [deviceTakes_of_held hr]; exact memoryOk_loseDevice h
  · rw [deviceTakes_of_outOfReset hr]; exact heffect

section
variable {s : State} (h : MemoryOk s)
include h

theorem memoryOk_columnOrVop (v : BitVec 7) : MemoryOk (columnOrVop v s) := by
  rcases columnOrVop_cases v s with ⟨-, e⟩ | ⟨-, c, -, e⟩ | ⟨-, -, e⟩ <;> rw [e] <;> exact h

theorem memoryOk_bankAddress (y : Nat) : MemoryOk (bankAddress y s) := by
  rcases bankAddress_cases y s with ⟨-, e⟩ | ⟨-, b, -, e⟩ | ⟨-, -, e⟩ <;> rw [e] <;> exact h

theorem memoryOk_normalMode : MemoryOk (normalMode s) := by
  unfold normalMode
  split
  · exact memoryOk_loseDevice h
  · exact h

theorem memoryOk_basicCommand (b : Byte) : MemoryOk (basicCommand b s) := by
  rcases basicCommand_cases b s with ⟨_, _, _, e⟩ | ⟨v, e⟩ | ⟨y, e⟩ | e | e <;> rw [e]
  · exact h
  · exact memoryOk_columnOrVop h v
  · exact memoryOk_bankAddress h y
  · exact memoryOk_normalMode h
  · exact memoryOk_loseDevice h

theorem memoryOk_extendedCommand (b : Byte) : MemoryOk (extendedCommand b s) := by
  unfold extendedCommand
  split
  · exact h
  · split
    · exact memoryOk_columnOrVop h _
    · exact memoryOk_loseDevice h

theorem memoryOk_unlistedCommand (w : WireByte) : MemoryOk (unlistedCommand w s) := by
  unfold unlistedCommand
  split
  · exact memoryOk_bankAddress h _
  · split
    · exact memoryOk_extendedCommand h _
    · exact memoryOk_basicCommand h _

theorem memoryOk_analogueSetting (b : Byte) {store : Device → Device} (hstore : ∀ d, (store d).ddram = d.ddram) :
    MemoryOk (analogueSetting b store s) := by
  cases hh : s.dev.h
  · rw [analogueSetting_basic hh]
    exact memoryOk_basicCommand h b
  · rw [analogueSetting_extended hh]
    refine ⟨h.1, ?_⟩
    rw [setDevice_dev, hstore]
    exact h.2

theorem memoryOk_storeData (d : Byte) : MemoryOk (storeData d s) :=
  ⟨h.1, full_ddramWrite d h.2 (cursorAddress_lt _ _)⟩

end

theorem exec_busInstr_memoryOk {i : Instr} {s t : State} (hi : isBusInstr i = true) (h : MemoryOk s)
    (he : exec i s = .next t) : MemoryOk t := by
  cases i with
  | functionSet pd v ext => cases he; exact memoryOk_deviceTakes (effect := functionFlags pd v ext) h h
  | temp b => cases he; exact memoryOk_deviceTakes (memoryOk_analogueSetting h b fun _ => rfl) h
  | bias b => cases he; exact memoryOk_deviceTakes (memoryOk_analogueSetting h b fun _ => rfl) h
  | setVop v => cases he; exact memoryOk_deviceTakes (memoryOk_columnOrVop h v) h
  | setX x => cases he; exact memoryOk_deviceTakes (memoryOk_columnOrVop h x) h
  | setY y => cases he; exact memoryOk_deviceTakes (memoryOk_bankAddress h y.toNat) h
  | displayNormal => cases he; exact memoryOk_deviceTakes (memoryOk_normalMode h) h
  | dataByte d => cases he; exact memoryOk_deviceTakes (memoryOk_storeData h d) h
  | _ => exact Bool.noConfusion hi

theorem exec_memoryOk {i : Instr} {s t : State} (h : MemoryOk s) (he : exec i s = .next t) : MemoryOk t := by
  rcases kind_of_exec_next he with hi | hi | hi
  · exact exec_frameBufferOp_memoryOk hi h he
  · exact memoryOk_keptByController.exec_keeps hi h he
  · exact exec_busInstr_memoryOk hi h he

theorem step_memoryOk {s t : State} (h : MemoryOk s) (hs : step s = .next t) : MemoryOk t := by
  rcases step_next_cases hs with
    ⟨w, rest, i, -, -, he⟩ | ⟨w, rest, e, -, -, he⟩ | ⟨p, rest, -, -, -, he⟩ | ⟨-, -, -, rfl⟩
  · exact exec_memoryOk (s := takeByte rest s) h he
  · cases he
    exact memoryOk_deviceTakes (memoryOk_unlistedCommand (s := takeByte rest s) h w) h
  · exact exec_memoryOk (s := takeRequest p rest s) h he
  · exact h

/-! ## A pixel is one bit of one byte of `FB` (R53, R54) -/

/-- The bit of a pixel's row within its byte, counted from the least significant (R135). -/
def pixelBit (y : Nat) : Nat := 7 - y % 8

theorem pixelMask_eq_twoPow (y : Nat) : pixelMask y = BitVec.twoPow 8 (pixelBit y) := by
  have row : ∀ r : Fin 8, 0x80#8 >>> r.val = BitVec.twoPow 8 (7 - r.val) := by decide
  exact row ⟨y % 8, Nat.mod_lt y (by decide)⟩

/-- Reading a pixel is reading its bit. -/
theorem pixelOn_eq_getLsbD (m : Mem) (x y : Nat) :
    pixelOn m x y = (fbRead m (pixelIndex x y)).getLsbD (pixelBit y) := by
  have nonzero : BitVec.twoPow 8 (pixelBit y) ≠ 0#8 := by
    have : ∀ k : Fin 8, BitVec.twoPow 8 (7 - k.val) ≠ 0#8 := by decide
    exact this ⟨y % 8, Nat.mod_lt y (by decide)⟩
  show decide (fbRead m (pixelIndex x y) &&& pixelMask y ≠ 0) = _
  rw [pixelMask_eq_twoPow, BitVec.and_twoPow]
  cases (fbRead m (pixelIndex x y)).getLsbD (pixelBit y) <;> simp [nonzero]

/-- Setting a pixel writes its bit and no other bit of the byte (R136). -/
theorem getLsbD_pixelByte (old : Byte) (y : Nat) (on : Bool) {k : Nat} (hk : k < 8) :
    (pixelByte old y on).getLsbD k = if k = pixelBit y then on else old.getLsbD k := by
  rw [pixelByte, pixelMask_eq_twoPow]
  by_cases h : k = pixelBit y
  · subst h
    cases on <;> simp [hk]
  · cases on <;> simp [hk, h]

theorem pixelByte_idem (old : Byte) (y : Nat) (on : Bool) :
    pixelByte (pixelByte old y on) y on = pixelByte old y on := by
  cases on
  · exact (BitVec.and_assoc ..).trans (congrArg _ BitVec.and_self)
  · exact (BitVec.or_assoc ..).trans (congrArg _ BitVec.or_self)

section
variable {x y x' y' : Nat}

theorem drawPixel_of_lt (hx : x < 84) (hy : y < 48) (on : Bool) (m : Mem) :
    drawPixel x y on m = fbWrite m (pixelIndex x y) (pixelByte (fbRead m (pixelIndex x y)) y on) := by
  have inRange : pixelInRange x y = true := by
    simp only [pixelInRange, Config.width, Config.height, Bool.and_eq_true, decide_eq_true_eq]
    omega
  simp [drawPixel, inRange]

/-- Two pixels of the surface with the same byte and the same bit are the same. -/
theorem pixel_eq_of_index_of_bit (hx : x < 84) (hy : y < 48) (hx' : x' < 84) (hy' : y' < 48)
    (hi : pixelIndex x' y' = pixelIndex x y) (hb : pixelBit y' = pixelBit y) : x' = x ∧ y' = y := by
  simp only [pixelIndex, pixelUnrotated, pixelBit, Config.bufSize, Config.width] at hi hb
  omega

/-- A pixel read after one has been drawn: that one as drawn, any other as before (R138). -/
theorem pixelOn_drawPixel (hx : x < 84) (hy : y < 48) (hx' : x' < 84) (hy' : y' < 48) (on : Bool) (m : Mem) :
    pixelOn (drawPixel x y on m) x' y' = if x' = x ∧ y' = y then on else pixelOn m x' y' := by
  have hbit : pixelBit y' < 8 := by unfold pixelBit; omega
  rw [pixelOn_eq_getLsbD, pixelOn_eq_getLsbD, drawPixel_of_lt hx hy, fbRead_fbWrite]
  by_cases hi : pixelIndex x' y' = pixelIndex x y
  · rw [if_pos hi, getLsbD_pixelByte _ _ _ hbit, hi]
    by_cases hb : pixelBit y' = pixelBit y
    · rw [if_pos hb, if_pos (pixel_eq_of_index_of_bit hx hy hx' hy' hi hb)]
    · rw [if_neg hb, if_neg fun ⟨_, e⟩ => hb (congrArg pixelBit e)]
  · rw [if_neg hi, if_neg fun ⟨ex, ey⟩ => hi (by rw [ex, ey])]

theorem fbRead_drawPixel_drawPixel (hx : x < 84) (hy : y < 48) (on : Bool) (m : Mem) (i : Nat) :
    fbRead (drawPixel x y on (drawPixel x y on m)) i = fbRead (drawPixel x y on m) i := by
  simp only [drawPixel_of_lt hx hy, fbRead_fbWrite, if_true, pixelByte_idem]
  split <;> rfl

end

/-- The inverse formula gives the byte and the bit of the pixel (R54). -/
theorem pixel_of_bit {i b : Nat} (hi : i < 504) (hb : b < 8) :
    pixelIndex (83 - i % 84) (47 - (8 * (i / 84) + b)) = i ∧ pixelBit (47 - (8 * (i / 84) + b)) = b := by
  simp only [pixelIndex, pixelUnrotated, pixelBit, Config.bufSize, Config.width]
  omega

/-- And from the byte and the bit of a pixel it recovers the pixel. -/
theorem bit_of_pixel {x y : Nat} (hx : x < 84) (hy : y < 48) :
    x = 83 - pixelIndex x y % 84 ∧ y = 47 - (8 * (pixelIndex x y / 84) + pixelBit y) := by
  simp only [pixelIndex, pixelUnrotated, pixelBit, Config.bufSize, Config.width]
  omega

/-! ## What a byte does to the device (R63, R221 to R228) -/

section
variable {s : State}

theorem columnOrVop_extended (h : s.dev.h = true) (v : BitVec 7) :
    columnOrVop v s = setDevice { s.dev with vop := v } s := by
  simp [columnOrVop, h]

theorem columnOrVop_column (h : s.dev.h = false) {v : BitVec 7} {c : Fin 84} (hc : c.val = v.toNat) :
    columnOrVop v s = setDevice { s.dev with col := c } s := by
  simp [columnOrVop, h, ← hc]

theorem columnOrVop_beyond (h : s.dev.h = false) {v : BitVec 7} (hv : 84 ≤ v.toNat) :
    columnOrVop v s = loseCursor s := by
  simp [columnOrVop, h, Nat.not_lt.2 hv]

theorem bankAddress_extended (h : s.dev.h = true) (y : Nat) : bankAddress y s = s := by
  simp [bankAddress, h]

theorem bankAddress_bank (h : s.dev.h = false) (b : Fin 6) :
    bankAddress b.val s = setDevice { s.dev with bank := b } s := by
  simp [bankAddress, h]

theorem bankAddress_beyond (h : s.dev.h = false) {y : Nat} (hy : 6 ≤ y) : bankAddress y s = loseCursor s := by
  simp [bankAddress, h, Nat.not_lt.2 hy]

/-- A column address, then a bank address, both in range. -/
theorem addresses_inRange (h : s.dev.h = false) {v : BitVec 7} {c : Fin 84} (hc : c.val = v.toNat) (b : Fin 6) :
    bankAddress b.val (columnOrVop v s) = setDevice { s.dev with col := c, bank := b } s := by
  rw [columnOrVop_column h hc]
  exact bankAddress_bank (s := setDevice { s.dev with col := c } s) h b

theorem addresses_origin (h : s.dev.h = false) :
    bankAddress ((0x40 : Byte) &&& 0x3F).toNat (columnOrVop 0#7 s) = setDevice { s.dev with col := 0, bank := 0 } s :=
  addresses_inRange h (v := 0#7) (c := 0) rfl 0

/-- In the basic set an address changes the cursor at most, to some place. -/
theorem columnOrVop_dev_basic (h : s.dev.h = false) (v : BitVec 7) :
    ∃ c b, (columnOrVop v s).dev = { s.dev with col := c, bank := b } := by
  rcases columnOrVop_cases v s with ⟨hext, -⟩ | ⟨-, c, -, e⟩ | ⟨-, -, e⟩
  · exact absurd (h.symm.trans hext) (by decide)
  · exact ⟨c, s.dev.bank, by rw [e, setDevice_dev]⟩
  · exact ⟨_, _, by rw [e, loseCursor]⟩

theorem bankAddress_dev_basic (h : s.dev.h = false) (y : Nat) :
    ∃ c b, (bankAddress y s).dev = { s.dev with col := c, bank := b } := by
  rcases bankAddress_cases y s with ⟨hext, -⟩ | ⟨-, b, -, e⟩ | ⟨-, -, e⟩
  · exact absurd (h.symm.trans hext) (by decide)
  · exact ⟨s.dev.col, b, by rw [e, setDevice_dev]⟩
  · exact ⟨_, _, by rw [e, loseCursor]⟩

theorem addresses_dev_basic (h : s.dev.h = false) (v : BitVec 7) (y : Nat) :
    ∃ c b, (bankAddress y (columnOrVop v s)).dev = { s.dev with col := c, bank := b } := by
  obtain ⟨c, b, column⟩ := columnOrVop_dev_basic h v
  obtain ⟨c', b', bank⟩ := bankAddress_dev_basic (s := columnOrVop v s) (by rw [column]; exact h) y
  exact ⟨c', b', by rw [bank, column]⟩

end

/-! In the basic set a byte is the command its bits say. -/

theorem basicCommand_functionSet (pd v h : Bool) (s : State) :
    basicCommand (functionSetByte pd v h) s = functionFlags pd v h s := by
  cases pd <;> cases v <;> cases h <;> rfl

theorem basicCommand_column (x : BitVec 7) (s : State) : basicCommand (1#1 ++ x) s = columnOrVop x s := by
  have notFunction : ∀ x : BitVec 7, ¬(1#1 ++ x : Byte) &&& 0xF8 = 0x20 := by decide
  have fixed : (1#1 ++ x : Byte) &&& 0x80 = 0x80 := Row.fixedBits_of_admits (Laws.RowPattern.setX x rfl)
  rw [basicCommand, if_neg (notFunction x), if_pos fixed]
  exact congrArg (columnOrVop · s) BitVec.setWidth_append_eq_right

theorem basicCommand_bank (y : BitVec 3) (s : State) : basicCommand (0x08#5 ++ y) s = bankAddress y.toNat s := by
  have bits : ∀ y : BitVec 3, ¬(0x08#5 ++ y : Byte) &&& 0xF8 = 0x20 ∧ ¬(0x08#5 ++ y : Byte) &&& 0x80 = 0x80 ∧
      ((0x08#5 ++ y : Byte) &&& 0x07).toNat = y.toNat := by decide
  have fixed : (0x08#5 ++ y : Byte) &&& 0xF8 = 0x40 := Row.fixedBits_of_admits (Laws.RowPattern.setY y rfl)
  obtain ⟨notFunction, notColumn, operand⟩ := bits y
  rw [basicCommand, if_neg notFunction, if_neg notColumn, if_pos fixed, operand]

theorem basicCommand_displayNormal (s : State) : basicCommand 0x0C s = normalMode s := rfl

/-- An instruction of the bus has one effect on the device, which a reset line held active takes the place of. -/
theorem exec_busInstr_takes {i : Instr} (hi : isBusInstr i = true) :
    ∃ effect, ∀ s, exec i s = .next (deviceTakes effect s) := by
  cases i with
  | functionSet | temp | bias | setVop | setX | setY | displayNormal | dataByte => exact ⟨_, fun _ => rfl⟩
  | _ => exact Bool.noConfusion hi

/-- A byte taken changes the device alone; under an active reset line it leaves an arbitrary one (R57, R64). -/
theorem deviceTakes_changes {effect : State → State} {s : State} (h : DeviceOnly s (deviceTakes effect s)) :
    ∃ d n, deviceTakes effect s = { s with dev := d, draws := n } ∧
      (s.rstPin = s.cfg.rstActive → d = Device.arbitrary s.draws) :=
  ⟨_, _, h, fun held => by rw [deviceTakes_of_held held, loseDevice_dev]⟩

/-! Out of reset every instruction of the bus has its effect. -/

section
variable {s : State} (h : OutOfReset s)
include h

theorem exec_functionSet (pd v ext : Bool) : exec (.functionSet pd v ext) s = .next (functionFlags pd v ext s) :=
  congrArg _ (deviceTakes_of_outOfReset h)

theorem exec_temp (b : Byte) : exec (.temp b) s = .next (analogueSetting b (fun d => { d with temp := b }) s) :=
  congrArg _ (deviceTakes_of_outOfReset h)

theorem exec_bias (b : Byte) : exec (.bias b) s = .next (analogueSetting b (fun d => { d with bias := b }) s) :=
  congrArg _ (deviceTakes_of_outOfReset h)

theorem exec_setVop (v : BitVec 7) : exec (.setVop v) s = .next (columnOrVop v s) :=
  congrArg _ (deviceTakes_of_outOfReset h)

theorem exec_setX (x : BitVec 7) : exec (.setX x) s = .next (columnOrVop x s) :=
  congrArg _ (deviceTakes_of_outOfReset h)

theorem exec_setY (y : BitVec 3) : exec (.setY y) s = .next (bankAddress y.toNat s) :=
  congrArg _ (deviceTakes_of_outOfReset h)

theorem exec_displayNormal : exec .displayNormal s = .next (normalMode s) :=
  congrArg _ (deviceTakes_of_outOfReset h)

theorem exec_dataByte (d : Byte) : exec (.dataByte d) s = .next (storeData d s) :=
  congrArg _ (deviceTakes_of_outOfReset h)

theorem execUnlisted_of_outOfReset (w : WireByte) : execUnlisted w s = .next (unlistedCommand w s) :=
  congrArg _ (deviceTakes_of_outOfReset h)

end

/-! ## The pulse of the reset line (R183) -/

theorem rstInactive_ne_rstActive (p : Params) : p.rstInactive ≠ p.rstActive := by
  unfold Params.rstInactive
  cases p.rstActive <;> decide

/-- Of the six calls that go through, the drive to the active level alone reaches the device. -/
theorem resetSteps_ok {s : State} {rest : List Answer} (h : RunsThrough 6 rest s) :
    resetSteps s.cfg (accept .lcdReset s) = .going { s with
      trace := s.trace ++ (resetRows s.cfg s.func).map CallRow.event, answers := rest, rstPin := s.cfg.rstInactive,
      seq := some { op := .lcdReset, index := 6 }, dev := Device.arbitrary s.draws, draws := s.draws + 1 } := by
  obtain ⟨answers, plan⟩ := h
  have answers : s.answers = .ok :: .ok :: .ok :: .ok :: .ok :: .ok :: rest := answers
  simp [resetSteps, rstSet_ok, delay_ok, answers, plan, rstInactive_ne_rstActive, resetRows, Position.next]

/-! ## The operands of `lcd.position` under legal masks (R100, R101, D6) -/

theorem columnByte_of_legal {p : Params} (h : p.legal = true) (x : Byte) : columnByte p x = 1#1 ++ x.setWidth 7 := by
  have fixed : ∀ b : Byte, 0x80 ||| b = 1#1 ++ b.setWidth 7 := by decide
  have operand : ∀ m : Byte, m &&& 0x7F = 0x7F → m.setWidth 7 = BitVec.allOnes 7 := by decide
  have mask : p.xMask &&& 0x7F = 0x7F := by
    simp only [Params.legal, Bool.and_eq_true, beq_iff_eq] at h
    tauto
  rw [columnByte, fixed, BitVec.setWidth_and, operand _ mask, BitVec.and_allOnes]

/-- The column byte of operand 0 is the same under every mask. -/
theorem columnByte_zero (p : Params) : columnByte p 0 = 1#1 ++ 0#7 :=
  congrArg (Config.setX ||| ·) BitVec.zero_and

theorem bankByte_zero (p : Params) : bankByte p 0 = 0x40 :=
  congrArg (Config.setY ||| ·) BitVec.zero_and

section
variable {p : Params} (h : p.legal = true)
include h

theorem yMask_of_legal : p.yMask &&& 0x80 = 0#8 ∧ p.yMask &&& 0x07 = 0x07 := by
  have bits : ∀ m : Byte, m &&& 0x87 = 0x07 → m &&& 0x80 = 0#8 ∧ m &&& 0x07 = 0x07 := by decide
  apply bits
  simp only [Params.legal, Bool.and_eq_true, beq_iff_eq] at h
  tauto

theorem bankByte_fixedBits (y : Byte) : bankByte p y &&& 0xC0 = 0x40 := by
  have bits : ∀ b : Byte, b &&& 0x80 = 0#8 → (0x40 ||| b) &&& 0xC0 = 0x40 := by decide
  apply bits
  rw [BitVec.and_assoc, (yMask_of_legal h).1, BitVec.and_zero]

theorem bankByte_operand {y : Byte} (hy : y.toNat < 8) : (bankByte p y &&& 0x3F).toNat = y.toNat := by
  have low : ∀ y : Byte, y.toNat < 8 → 0x07 &&& y = y ∧ ((0x40 ||| y) &&& 0x3F).toNat = y.toNat := by decide
  obtain ⟨hlow, hbyte⟩ := low y hy
  have kept : y &&& p.yMask = y := by
    rw [← hlow, BitVec.and_comm, ← BitVec.and_assoc, (yMask_of_legal h).2]
  rw [bankByte, kept, hbyte]

end

/-! ## The bytes an operation sends (R166, R167) -/

/-- The state `t` is `s` with these bytes on their way to the device, which it has not yet taken. -/
structure Sent (bytes : List WireByte) (s t : State) : Prop where
  wire : t.wire = s.wire ++ bytes
  dev : t.dev = s.dev
  rstPin : t.rstPin = s.rstPin
  cfg : t.cfg = s.cfg
  fb : t.fb = s.fb
  func : t.func = s.func

theorem Sent.trans {front back : List WireByte} {s t u : State} (h : Sent front s t) (h' : Sent back t u) :
    Sent (front ++ back) s u where
  wire := by rw [h'.wire, h.wire, List.append_assoc]
  dev := h'.dev.trans h.dev
  rstPin := h'.rstPin.trans h.rstPin
  cfg := h'.cfg.trans h.cfg
  fb := h'.fb.trans h.fb
  func := h'.func.trans h.func

theorem Sent.outOfReset {bytes : List WireByte} {s t : State} (h : Sent bytes s t) (hs : OutOfReset s) :
    OutOfReset t := by
  rwa [OutOfReset, h.rstPin, h.cfg]

theorem Sent.stepsThroughAllCells {bytes : List WireByte} {s t : State} (h : Sent bytes s t)
    (hs : StepsThroughAllCells s) : StepsThroughAllCells t := by
  rwa [StepsThroughAllCells, h.dev, h.cfg]

/-- Where the environment answers `ok` to as many calls as they make, the steps send these bytes. -/
def Sends (calls : Nat) (bytes : List WireByte) (steps : State → Run) : Prop :=
  ∀ s rest, RunsThrough calls rest s → ∃ t, steps s = .going t ∧ Sent bytes s t ∧ RunsThrough 0 rest t

theorem Sends.andThen {m n : Nat} {front back : List WireByte} {steps steps' : State → Run} (h : Sends m front steps)
    (h' : Sends n back steps') : Sends (m + n) (front ++ back) fun s => (steps s).andThen steps' := by
  rintro s rest ⟨ha, hplan⟩
  rw [List.replicate_add, List.append_assoc] at ha
  obtain ⟨t, ht, sent, hrest⟩ := h s _ ⟨ha, hplan⟩
  obtain ⟨u, hu, sent', hrest'⟩ := h' t rest hrest
  exact ⟨u, (congrArg (Run.andThen · steps') ht).trans hu, sent.trans sent', hrest'⟩

/-- A byte of a command frame on the wire. -/
def commandByte (frame : Frame) (b : Byte) : WireByte := { dc := .low, byte := b, frame := frame }

/-- The bytes of a data frame on the wire. -/
def dataBytes (run : List Byte) : List WireByte := run.map fun b => { dc := .high, byte := b, frame := .data }

theorem sends_cmdFrame (frame : Frame) (b : Byte) : Sends 2 [commandByte frame b] (cmdFrame frame b) := by
  rintro s rest ⟨ha, hplan⟩
  refine ⟨_, cmdFrame_ok (ha ▸ startsOk_replicate 2 rest) hplan, ⟨rfl, rfl, rfl, rfl, rfl, rfl⟩, ?_, hplan⟩
  exact congrArg (List.drop 2) ha

theorem sends_dataFrame (run : List Byte) : Sends 2 (dataBytes run) (dataFrame run) := by
  rintro s rest ⟨ha, hplan⟩
  refine ⟨_, dataFrame_ok (ha ▸ startsOk_replicate 2 rest) hplan, ⟨rfl, rfl, rfl, rfl, rfl, rfl⟩, ?_, hplan⟩
  exact congrArg (List.drop 2) ha

theorem sends_positionSteps (p : Params) (x y : Byte) :
    Sends 4 [commandByte .setX (columnByte p x), commandByte .setY (bankByte p y)] (positionSteps p x y) :=
  (sends_cmdFrame .setX _).andThen (sends_cmdFrame .setY _)

/-- The bytes of `lcd.position(0, 0)`, which are the same under every mask. -/
def originBytes : List WireByte := [commandByte .setX (1#1 ++ 0#7), commandByte .setY 0x40]

theorem sends_originSteps (p : Params) : Sends 4 originBytes (positionSteps p 0 0) := by
  have sends := sends_positionSteps p 0 0
  rwa [columnByte_zero, bankByte_zero] at sends

theorem sends_clearSteps (p : Params) :
    Sends 6 (dataBytes (List.replicate 504 0x00) ++ originBytes) (clearSteps p) :=
  (sends_dataFrame _).andThen (sends_originSteps p)

/-- An operation whose steps go through has sent their bytes. -/
theorem operation_sent {i : Instr} {onOk : Ghosts → Ghosts} {steps : State → Run} {n : Nat} {bytes : List WireByte}
    (h : Sends n bytes steps) {s : State} {rest : List Answer} (hs : RunsThrough n rest s) :
    ∃ t, operation i onOk steps s = .next t ∧ Sent bytes s t := by
  obtain ⟨t, ht, sent, -⟩ := h (accept i s) rest hs
  rw [operation_of_not_abandoned hs.2, ht]
  exact ⟨_, rfl, sent.wire, sent.dev, sent.rstPin, sent.cfg, sent.fb, sent.func⟩

/-- `lcd.flush` is `lcd.data` of the bytes of `FB`, after `fb.bytes` has responded with them (R169, D20). -/
theorem flush_eq (s : State) : flush s = exec (.lcdData (fbAll s.fb)) (respond (.bytes (fbAll s.fb)) s) := by
  simp [flush, execFbBytes, afterwards, exec]

/-! ## What the device makes of the bytes on the wire (R72)

No effect of a byte reads the wire. -/

theorem takeByte_takeByte (rest rest' : List WireByte) (s : State) :
    takeByte rest (takeByte rest' s) = takeByte rest s := rfl

theorem columnOrVop_takeByte (v : BitVec 7) (rest : List WireByte) (s : State) :
    columnOrVop v (takeByte rest s) = takeByte rest (columnOrVop v s) := by
  unfold columnOrVop
  rw [takeByte_dev]
  split
  · rfl
  · split <;> rfl

theorem bankAddress_takeByte (y : Nat) (rest : List WireByte) (s : State) :
    bankAddress y (takeByte rest s) = takeByte rest (bankAddress y s) := by
  unfold bankAddress
  rw [takeByte_dev]
  split
  · rfl
  · split <;> rfl

theorem DeviceOnly.wire {s t : State} (h : DeviceOnly s t) : t.wire = s.wire := by
  rw [h]

theorem DeviceOnly.fb {s t : State} (h : DeviceOnly s t) : t.fb = s.fb := by
  rw [h]

theorem DeviceOnly.outOfReset {s t : State} (h : DeviceOnly s t) (hs : OutOfReset s) : OutOfReset t := by
  rw [h]
  exact hs

theorem run_succ_of_step {M : Host.Core} {s t : M.State} {k : Nat} (h : M.step s = .next t) :
    M.run (k + 1) s = M.run k t := by
  rw [Host.Core.run, h]

theorem settled_of_drained {s : State} (h : s.wire = []) : settled s = .next s := by
  rw [settled, h]
  rfl

section
variable {s t : State} {rest : List WireByte}

/-- The device takes the first byte, then the others. -/
theorem settled_of_step {w : WireByte} (hw : s.wire = w :: rest) (hs : step s = .next t) (ht : t.wire = rest) :
    settled s = settled t := by
  rw [settled, settled, hw, ht]
  exact run_succ_of_step hs

variable (h : OutOfReset s)
include h

theorem settled_columnByte {x : BitVec 7} (hw : s.wire = commandByte .setX (1#1 ++ x) :: rest) :
    settled s = settled (columnOrVop x (takeByte rest s)) := by
  refine settled_of_step hw ?_ (columnOrVop_deviceOnly x _).wire
  rw [step_of_wire hw (decodeWire_setX x)]
  exact exec_setX (s := takeByte rest s) h x

/-- A bank frame's byte `01yyyyyy`, of the table or not, is a bank address (R226, log 41). -/
theorem settled_bankByte {b : Byte} (hw : s.wire = commandByte .setY b :: rest) (hb : b &&& 0xC0 = 0x40) :
    settled s = settled (bankAddress (b &&& 0x3F).toNat (takeByte rest s)) := by
  have out : OutOfReset (takeByte rest s) := h
  refine settled_of_step hw ?_ (bankAddress_deviceOnly _ _).wire
  by_cases listed : b &&& 0xF8 = 0x40
  · have operand : ∀ b : Byte, b &&& 0xF8 = 0x40 → (b.extractLsb' 0 3).toNat = (b &&& 0x3F).toNat := by decide
    rw [step_of_wire hw (if_pos listed), exec_setY out]
    exact congrArg (fun y => Host.Outcome.next (bankAddress y (takeByte rest s))) (operand b listed)
  · rw [step_of_unlisted hw (if_neg listed), execUnlisted_of_outOfReset out, unlistedCommand_bank rfl hb]
    rfl

end

/-- The device takes the bytes of `lcd.position`. -/
theorem settled_position {s : State} {x : BitVec 7} {b : Byte} (h : OutOfReset s)
    (hw : s.wire = [commandByte .setX (1#1 ++ x), commandByte .setY b]) (hb : b &&& 0xC0 = 0x40) :
    settled s = .next (takeByte [] (bankAddress (b &&& 0x3F).toNat (columnOrVop x s))) := by
  have column := columnOrVop_deviceOnly x (takeByte [commandByte .setY b] s)
  rw [settled_columnByte h hw, settled_bankByte (column.outOfReset h) column.wire hb,
    settled_of_drained (bankAddress_deviceOnly _ _).wire, columnOrVop_takeByte, takeByte_takeByte, bankAddress_takeByte]

/-! ## A run of data bytes (R60 to R62) -/

/-- The state once the device has taken a run of data bytes. -/
def storeRun (run : List Byte) (s : State) : State := run.foldl (fun t d => storeData d t) s

theorem storeRun_concat (run : List Byte) (d : Byte) (s : State) :
    storeRun (run ++ [d]) s = storeData d (storeRun run s) := by
  rw [storeRun, List.foldl_concat]
  rfl

/-- A run of data bytes changes the cells and the cursor alone. -/
theorem storeRun_frame (run : List Byte) (s : State) :
    storeRun run s = { s with dev := { s.dev with
      ddram := (storeRun run s).dev.ddram, col := (storeRun run s).dev.col, bank := (storeRun run s).dev.bank } } := by
  induction run generalizing s with
  | nil => rfl
  | cons d run ih => exact ih (storeData d s)

theorem storeRun_deviceOnly (run : List Byte) (s : State) : DeviceOnly s (storeRun run s) := by
  unfold DeviceOnly
  rw [storeRun_frame]

/-- The device takes a run of data bytes, then the rest of the wire. -/
theorem settled_dataBytes {run : List Byte} {rest : List WireByte} {s : State} (h : OutOfReset s)
    (hw : s.wire = dataBytes run ++ rest) : settled s = settled (storeRun run (takeByte rest s)) := by
  induction run generalizing s with
  | nil =>
    have : takeByte rest s = s := by rw [takeByte, ← show s.wire = rest from hw]
    exact congrArg settled this.symm
  | cons d run ih =>
    have first : step s = .next (storeData d (takeByte (dataBytes run ++ rest) s)) := by
      rw [step_of_wire (i := .dataByte d) hw rfl]
      exact exec_dataByte (s := takeByte (dataBytes run ++ rest) s) h d
    exact (settled_of_step hw first rfl).trans (ih (s := storeData d (takeByte (dataBytes run ++ rest) s)) h rfl)

/-! ### The cursor goes round all cells

A cursor is a column and a bank. In either direction its places have ranks, 0 to 503, along which every byte moves it on
by one. -/

/-- The cursor of a device. -/
def Device.cursor (d : Device) : Fin 84 × Fin 6 := (d.col, d.bank)

/-- The cell a cursor stands at. -/
def cellAt (c : Fin 84 × Fin 6) : Nat := cursorAddress c.1 c.2

/-- Where a data byte moves the cursor. -/
def cursorNext (s : State) (c : Fin 84 × Fin 6) : Fin 84 × Fin 6 := cursorStep s.cfg.vertStep s.dev.v c.1 c.2

/-- Going round by these ranks, `next` passes every cursor. -/
structure GoesRound (rank : Fin 84 × Fin 6 → Nat) (next : Fin 84 × Fin 6 → Fin 84 × Fin 6) : Prop where
  injective : Function.Injective rank
  lt (c : Fin 84 × Fin 6) : rank c < 504
  next (c : Fin 84 × Fin 6) : rank (next c) = (rank c + 1) % 504

theorem cellAt_injective : Function.Injective cellAt := by
  rintro ⟨col, bank⟩ ⟨col', bank'⟩ h
  have h : bank.val * 84 + col.val = bank'.val * 84 + col'.val := h
  exact Prod.ext (Fin.ext (show col.val = col'.val by omega)) (Fin.ext (show bank.val = bank'.val by omega))

/-- In horizontal addressing a cursor's rank is its cell (R60). -/
theorem goesRound_horizontal {s : State} (h : s.dev.v = false) : GoesRound cellAt (cursorNext s) where
  injective := cellAt_injective
  lt c := cursorAddress_lt c.1 c.2
  next c := by
    simp only [cursorNext, cursorStep, h]
    exact cursorAddress_horizontalStep c.1 c.2

/-- Column by column, from the top bank of each down. -/
def columnRank (c : Fin 84 × Fin 6) : Nat := c.1.val * 6 + c.2.val

theorem columnRank_injective : Function.Injective columnRank := by
  rintro ⟨col, bank⟩ ⟨col', bank'⟩ h
  have h : col.val * 6 + bank.val = col'.val * 6 + bank'.val := h
  exact Prod.ext (Fin.ext (show col.val = col'.val by omega)) (Fin.ext (show bank.val = bank'.val by omega))

theorem columnRank_columnByColumn (col : Fin 84) (bank : Fin 6) :
    columnRank (columnByColumn col bank) = (columnRank (col, bank) + 1) % 504 := by
  revert col bank
  decide

/-- In vertical addressing, with the default stepping, it counts down the columns (R61). -/
theorem goesRound_vertical {s : State} (h : s.dev.v = true) (hstep : s.cfg.vertStep = .bankThenColumn) :
    GoesRound columnRank (cursorNext s) where
  injective := columnRank_injective
  lt c := by unfold columnRank; omega
  next c := by
    simp only [cursorNext, cursorStep, h, hstep]
    exact columnRank_columnByColumn c.1 c.2

theorem goesRound_of_stepsThroughAllCells {s : State} (h : StepsThroughAllCells s) :
    ∃ rank, GoesRound rank (cursorNext s) := by
  cases hv : s.dev.v with
  | false => exact ⟨_, goesRound_horizontal hv⟩
  | true => exact ⟨_, goesRound_vertical hv (h hv)⟩

namespace GoesRound

variable {rank : Fin 84 × Fin 6 → Nat} {next : Fin 84 × Fin 6 → Fin 84 × Fin 6} (h : GoesRound rank next)
  (c : Fin 84 × Fin 6)
include h

theorem rank_iterate (k : Nat) : rank (next^[k] c) = (rank c + k) % 504 := by
  induction k with
  | zero => exact (Nat.mod_eq_of_lt (h.lt c)).symm
  | succ k ih => rw [Function.iterate_succ_apply', h.next, ih, Nat.mod_add_mod, Nat.add_assoc]

/-- After 504 bytes the cursor is where it was (R62). -/
theorem iterate_504 : next^[504] c = c := by
  apply h.injective
  rw [h.rank_iterate, Nat.add_mod_right, Nat.mod_eq_of_lt (h.lt c)]

/-- Before that it stands at no place twice. -/
theorem eq_of_iterate_eq {j k : Nat} (hj : j < 504) (hk : k < 504) (e : next^[j] c = next^[k] c) : j = k := by
  have e := congrArg rank e
  rw [h.rank_iterate, h.rank_iterate] at e
  have := h.lt c
  omega

end GoesRound

/-! ### Where the bytes of a run land -/

theorem cursor_storeRun (run : List Byte) (s : State) :
    (storeRun run s).dev.cursor = (cursorNext s)^[run.length] s.dev.cursor := by
  induction run generalizing s with
  | nil => rfl
  | cons d run ih => exact ih (storeData d s)

theorem ddramRead_storeData (d : Byte) (s : State) (a : Nat) :
    ddramRead (storeData d s).dev.ddram a = if a = cellAt s.dev.cursor then some d else ddramRead s.dev.ddram a :=
  ddramRead_ddramWrite ..

/-- A run of at most 504 bytes leaves each byte in the cell at which the cursor stood for it. -/
theorem ddramRead_storeRun {rank : Fin 84 × Fin 6 → Nat} {s : State} (h : GoesRound rank (cursorNext s))
    {run : List Byte} (hlen : run.length ≤ 504) {k : Nat} (hk : k < run.length) :
    ddramRead (storeRun run s).dev.ddram (cellAt ((cursorNext s)^[k] s.dev.cursor)) = run[k]? := by
  induction run using List.reverseRecOn with
  | nil => exact absurd hk (Nat.not_lt_zero k)
  | append_singleton run d ih =>
    rw [List.length_append, List.length_singleton] at hlen hk
    rw [storeRun_concat, ddramRead_storeData, cursor_storeRun]
    by_cases last : k = run.length
    · rw [last, if_pos rfl, List.getElem?_concat_length]
    · have earlier : k < run.length := by omega
      have elsewhere : cellAt ((cursorNext s)^[k] s.dev.cursor) ≠ cellAt ((cursorNext s)^[run.length] s.dev.cursor) :=
        fun e => last (h.eq_of_iterate_eq _ (by omega) (by omega) (cellAt_injective e))
      rw [if_neg elsewhere, ih (by omega) earlier, List.getElem?_append_left earlier]

/-- The cell of each byte of a whole frame. -/
def frameCell (s : State) (k : Fin 504) : Fin 504 :=
  ⟨cellAt ((cursorNext s)^[k.val] s.dev.cursor), cursorAddress_lt _ _⟩

theorem frameCell_bijective {s : State} (h : StepsThroughAllCells s) : Function.Bijective (frameCell s) := by
  obtain ⟨rank, round⟩ := goesRound_of_stepsThroughAllCells h
  refine Finite.injective_iff_bijective.1 fun j k e => Fin.ext ?_
  exact round.eq_of_iterate_eq _ j.isLt k.isLt (cellAt_injective (Fin.mk.inj e))

/-- A whole frame leaves each byte in its cell, and the cursor where it was (R62). -/
theorem storeRun_frameCell {s : State} (h : StepsThroughAllCells s) {run : List Byte} (hlen : run.length = 504) :
    (storeRun run s).dev.cursor = s.dev.cursor ∧
      ∀ k, ddramRead (storeRun run s).dev.ddram (frameCell s k).val = run[k.val]? := by
  obtain ⟨rank, round⟩ := goesRound_of_stepsThroughAllCells h
  refine ⟨?_, fun k => ddramRead_storeRun round hlen.le (by omega)⟩
  rw [cursor_storeRun, hlen, round.iterate_504]

/-- A whole frame of one byte leaves that byte in every cell. -/
theorem ddramRead_storeRun_replicate {s : State} (h : StepsThroughAllCells s) (v : Byte) {a : Nat} (ha : a < 504) :
    ddramRead (storeRun (List.replicate 504 v) s).dev.ddram a = some v := by
  obtain ⟨k, hk⟩ := (frameCell_bijective h).surjective ⟨a, ha⟩
  have cell := (storeRun_frameCell h (List.length_replicate (a := v))).2 k
  rwa [hk, List.getElem?_replicate_of_lt k.isLt] at cell

/-- From the origin, in horizontal addressing, byte `k` of a whole frame is in cell `k`. -/
theorem frameCell_origin {s : State} (hv : s.dev.v = false) (hcol : s.dev.col = 0) (hbank : s.dev.bank = 0)
    (k : Fin 504) : frameCell s k = k := by
  have origin : cellAt s.dev.cursor = 0 := by rw [Device.cursor, hcol, hbank]; rfl
  apply Fin.ext
  show cellAt _ = k.val
  rw [(goesRound_horizontal hv).rank_iterate, origin]
  omega

theorem fbAll_getElem (m : Mem) (k : Fin 504) : (fbAll m)[k.val]? = some (fbRead m k.val) := by
  simp [fbAll]

/-- The device, in the basic set, takes the bytes of `lcd.clear`: a frame of zeros, then the address of the origin. -/
theorem settled_clear {s : State} (h : OutOfReset s) (hbasic : s.dev.h = false) (hround : StepsThroughAllCells s)
    (hw : s.wire = dataBytes (List.replicate 504 0x00) ++ originBytes) :
    ∃ u, settled s = .next u ∧ u.wire = [] ∧ (∀ a, a < 504 → ddramRead u.dev.ddram a = some 0x00) ∧
      u.dev = { s.dev with ddram := u.dev.ddram, col := 0, bank := 0 } ∧ u.fb = s.fb ∧ u.func = s.func := by
  have frame := storeRun_frame (List.replicate 504 0x00) (takeByte originBytes s)
  have blank (a : Nat) (ha : a < 504) := ddramRead_storeRun_replicate (s := takeByte originBytes s) hround 0x00 ha
  have settles := settled_dataBytes h hw
  generalize storeRun (List.replicate 504 0x00) (takeByte originBytes s) = v at frame blank settles
  have basic : v.dev.h = false := by rw [frame]; exact hbasic
  have out : OutOfReset v := by rw [frame]; exact h
  have wire : v.wire = originBytes := by rw [frame]; rfl
  rw [settled_position out wire rfl, addresses_origin basic] at settles
  refine ⟨_, settles, rfl, blank, ?_, ?_, ?_⟩ <;> rw [frame] <;> rfl

end Sys2Proof.Machine

namespace Sys2Proof.Proofs

open Sys2Proof.Machine Sys2Proof.Safety

/-! ## The obligations of 20_memory.md -/

/-- Settles O43: every operation keeps both forms, by its index where it writes a byte; so does every byte the device
takes. -/
theorem memoryKeepsForm : Obligations.MemoryKeepsForm :=
  fun _ _ => step_memoryOk

/-- Settles O15: the pixel's bit is written and no other, and writing it again gives the same byte. -/
theorem pixelReadsBack : Obligations.PixelReadsBack := by
  intro s x y on hx hy
  refine ⟨_, _, rfl, ?_, fun x' y' hx' hy' hne => ?_, rfl, fun i => fbRead_drawPixel_drawPixel hx hy on s.fb i⟩
  · exact (pixelOn_drawPixel hx hy hx hy on s.fb).trans (if_pos ⟨rfl, rfl⟩)
  · exact (pixelOn_drawPixel hx hy hx' hy' on s.fb).trans (if_neg (by omega))

/-- Settles O16: the transform and the inverse formula undo each other, and a byte is its eight pixels. -/
theorem pixelBijection : Obligations.PixelBijection := by
  have mask (y : Nat) : pixelMask y = 1#8 <<< pixelBit y :=
    (pixelMask_eq_twoPow y).trans (BitVec.twoPow_eq ..)
  refine ⟨fun x y hx hy => ?_, fun i b hi hb => ?_, fun m h i hi => ?_⟩
  · obtain ⟨ex, ey⟩ := bit_of_pixel hx hy
    exact ⟨_, pixelBit y, pixelIndex_lt x y, by unfold pixelBit; omega, rfl, mask y, ex, ey⟩
  · obtain ⟨hindex, hbit⟩ := pixel_of_bit hi hb
    exact ⟨by omega, by omega, hindex, by rw [mask, hbit]⟩
  · refine BitVec.eq_of_getLsbD_eq fun b hb => ?_
    obtain ⟨hindex, hbit⟩ := pixel_of_bit hi hb
    have on := h (83 - i % 84) (47 - (8 * (i / 84) + b)) (by omega) (by omega)
    rw [pixelOn_eq_getLsbD, hindex, hbit] at on
    have ones : ∀ k : Fin 8, (0xFF : Byte).getLsbD k.val = true := by decide
    exact on.trans (ones ⟨b, hb⟩).symm

/-- Settles O22: the six calls go through, and the ghost `PST` moves with the response. -/
theorem resetPulsesLine : Obligations.ResetPulsesLine := by
  intro s rest h
  show operation .lcdReset afterReset (resetSteps s.cfg) s = _
  rw [operation_of_not_abandoned h.2, resetSteps_ok h, h.2]
  rfl

/-- Settles O48, by the three cases of the byte. -/
theorem columnOrVop : Obligations.ColumnOrVop := by
  intro s v h
  rw [exec_setVop h, exec_setX h]
  refine ⟨fun hext => ?_, fun hbasic c hc => ?_, fun hbasic hv => ?_⟩
  · rw [columnOrVop_extended hext]
    exact ⟨rfl, rfl⟩
  · rw [columnOrVop_column hbasic hc]
    exact ⟨rfl, rfl⟩
  · rw [columnOrVop_beyond hbasic hv]
    exact ⟨_, _, rfl, rfl⟩

/-- Settles O52: a write to the cursor's cell, and the cursor's step. -/
theorem dataByteStoresAndAdvances : Obligations.DataByteStoresAndAdvances := by
  intro s d h a
  refine ⟨storeData d s, exec_dataByte h d, ?_, fun b hb => ?_, fun hv => ?_, fun hv => ?_, fun hv hstep => ?_, rfl⟩
  · exact (ddramRead_ddramWrite ..).trans (if_pos rfl)
  · exact (ddramRead_ddramWrite ..).trans (if_neg hb)
  · simp only [storeData, setDevice_dev, cursorStep, hv]
    exact cursorAddress_horizontalStep s.dev.col s.dev.bank
  · simp [storeData, cursorStep, hv]
  · simp [storeData, cursorStep, hv, hstep, VertStep.apply, columnByColumn]

/-- Settles O53: every byte is taken by `deviceTakes`, whose effect changes the device alone. -/
theorem deviceStepsTouchDeviceOnly : Obligations.DeviceStepsTouchDeviceOnly := by
  refine ⟨fun s i hi => ?_, fun s w => ?_⟩
  · obtain ⟨effect, takes⟩ := exec_busInstr_takes hi
    obtain ⟨t, he, ht⟩ := exec_busInstr hi s
    obtain rfl := Host.Outcome.next.inj ((takes s).symm.trans he)
    obtain ⟨d, n, changed, held⟩ := deviceTakes_changes ht
    exact ⟨d, n, (takes s).trans (congrArg _ changed), held⟩
  · obtain ⟨d, n, changed, held⟩ := deviceTakes_changes (deviceTakes_deviceOnly (unlistedCommand_deviceOnly w) s)
    exact ⟨d, n, congrArg _ changed, held⟩

/-- Settles O5, by the three ways a step fetches an instruction. -/
theorem stepRunsDecodedInstruction : Obligations.StepRunsDecodedInstruction :=
  ⟨fun _ _ _ _ => step_of_wire, fun _ _ _ => step_of_request, fun _ _ _ _ => step_of_unlisted⟩

/-- Settles O47: out of reset the byte has its effect. -/
theorem functionSetSetsFlags : Obligations.FunctionSetSetsFlags :=
  fun _ pd v h hs => exec_functionSet hs pd v h

/-- Settles O49: a listed bank byte and one of a wider operand are both bank addresses. -/
theorem bankSetsBank : Obligations.BankSetsBank := by
  intro s y h
  refine ⟨fun hbasic b hb => ?_, fun hbasic hy => ?_, fun hext => ?_, fun b hlow hhigh => ?_⟩
  · rw [exec_setY h, ← hb, bankAddress_bank hbasic]
    rfl
  · rw [exec_setY h, bankAddress_beyond hbasic hy]
    exact ⟨_, _, rfl⟩
  · rw [exec_setY h, bankAddress_extended hext]
  · have bits : ∀ b : Byte, 8 ≤ b.toNat → b.toNat < 64 → ¬(0x40 ||| b) &&& 0xF8 = 0x40 ∧
        (0x40 ||| b) &&& 0xC0 = 0x40 ∧ 6 ≤ ((0x40 ||| b) &&& 0x3F).toNat := by decide
    obtain ⟨unlisted, fixed, wide⟩ := bits b hlow hhigh
    refine ⟨if_neg unlisted, fun hbasic => ?_, fun hext => ?_⟩
    · rw [execUnlisted_of_outOfReset h, unlistedCommand_bank rfl fixed, bankAddress_beyond hbasic wide]
      exact ⟨_, _, rfl⟩
    · rw [execUnlisted_of_outOfReset h, unlistedCommand_bank rfl fixed, bankAddress_extended hext]

/-- Settles O50: in the extended set the byte is recorded, in the basic set it is what its bits say. -/
theorem analogueSettingsSet : Obligations.AnalogueSettingsSet := by
  intro s h
  refine ⟨fun hext b => ?_, fun hbasic => ?_⟩
  · rw [exec_temp h, exec_bias h, analogueSetting_extended hext, analogueSetting_extended hext]
    exact ⟨rfl, rfl⟩
  · have temp (b : Byte) : exec (.temp b) s = .next (basicCommand b s) := by
      rw [exec_temp h, analogueSetting_basic hbasic]
    have bias (b : Byte) : exec (.bias b) s = .next (basicCommand b s) := by
      rw [exec_bias h, analogueSetting_basic hbasic]
    refine ⟨fun pd v ext => ?_, fun x => ?_, fun y => ?_, ?_⟩
    · rw [temp, bias, basicCommand_functionSet, exec_functionSet h]
      exact ⟨rfl, rfl⟩
    · rw [temp, bias, basicCommand_column, exec_setX h]
      exact ⟨rfl, rfl⟩
    · rw [temp, bias, basicCommand_bank, exec_setY h]
      exact ⟨rfl, rfl⟩
    · rw [temp, bias, basicCommand_displayNormal, exec_displayNormal h]
      exact ⟨rfl, rfl⟩

/-- Settles O56: the device takes a column byte and a bank byte, of which each sets its part of the cursor, or leaves
the cursor unknown; in the extended set the first sets the Vop and the second nothing. -/
theorem positionMovesCursor : Obligations.PositionMovesCursor := by
  intro s x y rest hlegal hwire hs hok
  obtain ⟨t, ht, sent⟩ := operation_sent (i := .lcdPosition x y) (onOk := ghostsKept)
    (sends_positionSteps s.cfg x y) hok
  have wire := sent.wire
  rw [hwire, List.nil_append, columnByte_of_legal hlegal] at wire
  have settles := settled_position (sent.outOfReset hs) wire (bankByte_fixedBits hlegal y)
  rw [← sent.dev]
  refine ⟨fun hbasic c b hc hb => ⟨t, _, ht, settles, rfl, ?_⟩, fun hbasic => ?_,
    fun hext => ⟨t, _, ht, settles, rfl, ?_⟩⟩
  · have column : c.val = (x.setWidth 7).toNat := by
      rw [BitVec.toNat_setWidth, ← hc]
      omega
    rw [takeByte_dev, bankByte_operand hlegal (by omega), ← hb, addresses_inRange hbasic column, setDevice_dev]
  · obtain ⟨c, b, moved⟩ := addresses_dev_basic hbasic (x.setWidth 7) (bankByte s.cfg y &&& 0x3F).toNat
    exact ⟨t, _, c, b, ht, settles, rfl, moved⟩
  · rw [takeByte_dev, columnOrVop_extended hext, bankAddress_extended (by exact hext)]
    rfl

/-- Settles O54: the cursor goes round all cells, so that byte `k` is in the cell it stands at after `k` steps. -/
theorem fullFrameCoversDdram : Obligations.FullFrameCoversDdram := by
  intro s hs hround
  refine ⟨frameCell s, frameCell_bijective hround, fun run hlen => ?_⟩
  obtain ⟨cursor, cells⟩ := storeRun_frameCell (s := takeByte [] s) hround hlen
  obtain ⟨col, bank⟩ := Prod.mk.inj cursor
  have drained : (storeRun run (takeByte [] s)).wire = [] := (storeRun_deviceOnly ..).wire
  exact ⟨_, (settled_dataBytes (s := { s with wire := dataBytes run }) hs (List.append_nil _).symm).trans
    (settled_of_drained drained), drained, col, bank, cells⟩

/-- Settles O55: `lcd.flush` sends the bytes of `FB` as one frame, and from the origin byte `k` lands in cell `k`. -/
theorem flushMirrorsFrameBuffer : Obligations.FlushMirrorsFrameBuffer := by
  rintro s rest ⟨hwire, hs, -, hv, hcol, hbank⟩ hok
  obtain ⟨t, ht, sent⟩ := operation_sent (i := .lcdData (fbAll s.fb)) (onOk := ghostsKept)
    (sends_dataFrame (fbAll s.fb)) (s := respond (.bytes (fbAll s.fb)) s) hok
  have wire : t.wire = dataBytes (fbAll s.fb) ++ [] := by
    rw [sent.wire, respond_wire, hwire, List.nil_append, List.append_nil]
  have device : (takeByte [] t).dev = s.dev := sent.dev
  have horizontal : (takeByte [] t).dev.v = false := by rw [device, hv]
  have origin := frameCell_origin horizontal (by rw [device, hcol]) (by rw [device, hbank])
  have round : StepsThroughAllCells (takeByte [] t) := fun vertical => nomatch horizontal.symm.trans vertical
  obtain ⟨cursor, cells⟩ := storeRun_frameCell round (run := fbAll s.fb) (by simp [fbAll])
  obtain ⟨col, bank⟩ := Prod.mk.inj cursor
  have only := storeRun_deviceOnly (fbAll s.fb) (takeByte [] t)
  refine ⟨t, storeRun (fbAll s.fb) (takeByte [] t), (flush_eq s).trans ht, ?_, only.wire, fun i hi => ?_, ?_, ?_,
    only.fb.trans sent.fb, only.func.trans sent.func⟩
  · rw [settled_dataBytes (sent.outOfReset hs) wire, settled_of_drained only.wire]
  · have cell := cells ⟨i, hi⟩
    rwa [origin, fbAll_getElem] at cell
  · rw [col, device, hcol]
  · rw [bank, device, hbank]

/-- Settles O58: the frame leaves 0x00 in every cell, and the two addresses after it put the cursor at the origin. -/
theorem clearBlanksDisplay : Obligations.ClearBlanksDisplay := by
  intro s rest hwire hs hbasic hround hok
  obtain ⟨t, ht, sent⟩ := operation_sent (i := .lcdClear) (onOk := ghostsKept) (sends_clearSteps s.cfg) hok
  have wire := sent.wire
  rw [hwire, List.nil_append] at wire
  obtain ⟨u, settles, drained, blank, device, fb, func⟩ := settled_clear (sent.outOfReset hs) (by rw [sent.dev, hbasic])
    (sent.stepsThroughAllCells hround) wire
  rw [sent.dev] at device
  exact ⟨t, u, ht, settles, drained, blank, device, fb.trans sent.fb, func.trans sent.func⟩

end Sys2Proof.Proofs

end

/-! PROOFS. The obligations of 30_encoding.md, after the lemmas they rest on: which steps make calls; a trace made of
whole frames; the fixed bits of every byte on the wire; what a word of the request port stands for, and what a request
comes to; `fb.draw` as requests. -/

section

namespace Sys2Proof.Machine

open Sys2Proof.Safety

/-! ## Only an operation of the Controller makes calls -/

theorem DeviceOnly.trace {s t : State} (h : DeviceOnly s t) : t.trace = s.trace := by
  rw [h]

/-- A step carries out an operation of the Controller, or makes no call and puts no byte on the wire. -/
theorem step_calls_cases {s t : State} (h : step s = .next t) :
    (t.trace = s.trace ∧ t.wire <:+ s.wire) ∨
      ∃ p rest, isControllerOp (decodeRequest s.cfg p.request) = true ∧
        exec (decodeRequest s.cfg p.request) (takeRequest p rest s) = .next t := by
  have byteTaken {w : WireByte} {rest : List WireByte} (hw : s.wire = w :: rest)
      (hd : DeviceOnly (takeByte rest s) t) : t.trace = s.trace ∧ t.wire <:+ s.wire :=
    ⟨hd.trace, by rw [hd.wire, takeByte_wire, hw]; exact List.suffix_cons w rest⟩
  rcases step_next_cases h with
    ⟨w, rest, i, hw, hi, he⟩ | ⟨w, rest, e, hw, -, he⟩ | ⟨p, rest, -, -, -, he⟩ | ⟨-, -, -, rfl⟩
  · obtain ⟨u, hu, hd⟩ := exec_decodeWire hi (takeByte rest s)
    obtain rfl := Host.Outcome.next.inj (he.symm.trans hu)
    exact .inl (byteTaken hw hd)
  · obtain ⟨u, hu, hd⟩ := execUnlisted_deviceOnly w (takeByte rest s)
    obtain rfl := Host.Outcome.next.inj (he.symm.trans hu)
    exact .inl (byteTaken hw hd)
  · rcases kind_of_exec_next he with hi | hi | hi
    · obtain ⟨r, m, e⟩ := exec_frameBufferOp hi (takeRequest p rest s)
      obtain rfl := Host.Outcome.next.inj (he.symm.trans e)
      exact .inl ⟨rfl, List.suffix_refl _⟩
    · exact .inr ⟨p, rest, hi, he⟩
    · obtain ⟨u, e, hd⟩ := exec_busInstr hi (takeRequest p rest s)
      obtain rfl := Host.Outcome.next.inj (he.symm.trans e)
      exact .inl ⟨hd.trace, by rw [hd.wire]; exact List.suffix_refl _⟩
  · exact .inl ⟨rfl, List.suffix_refl _⟩

/-! ## A trace made of frames (R96 to R98) -/

/-- An event of a trace looks back at the one before it, and no further. -/
theorem framedAfter_cons (prev : Option Event) (ev : Event) (rest : List Event) :
    framedAfter prev (ev :: rest) = (framedAfter prev [ev] && framedAfter (some ev) rest) := by
  cases ev <;> simp [framedAfter]

/-- With nothing before it a trace does not begin with a bus write, so that anything may come before it. -/
theorem framedAfter_of_none {calls : List Event} (h : framedAfter none calls = true) (prev : Option Event) :
    framedAfter prev calls = true := by
  cases calls with
  | nil => rfl
  | cons ev rest =>
    cases ev with
    | bus run => exact Bool.noConfusion h
    | rst | dc | dly => exact h

theorem framedAfter_append {prev : Option Event} {front back : List Event} (h : framedAfter prev front = true)
    (h' : framedAfter none back = true) : framedAfter prev (front ++ back) = true := by
  induction front generalizing prev with
  | nil => exact framedAfter_of_none h' prev
  | cons ev rest ih =>
    rw [framedAfter_cons, Bool.and_eq_true] at h
    rw [List.cons_append, framedAfter_cons, h.1, ih h.2, Bool.and_true]

theorem framedAfter_of_append {prev : Option Event} {front back : List Event}
    (h : framedAfter prev (front ++ back) = true) : framedAfter prev front = true := by
  induction front generalizing prev with
  | nil => rfl
  | cons ev rest ih =>
    rw [List.cons_append, framedAfter_cons, Bool.and_eq_true] at h
    rw [framedAfter_cons, h.1, ih h.2, Bool.and_true]

/-- The calls of these rows are whole frames, reset writes and delays. -/
def FramedRows (rows : List CallRow) : Prop := framedAfter none (rows.map CallRow.event) = true

theorem FramedRows.append {rows rows' : List CallRow} (h : FramedRows rows) (h' : FramedRows rows') :
    FramedRows (rows ++ rows') := by
  rw [FramedRows, List.map_append]
  exact framedAfter_append h h'

/-- The first calls of framed rows may break off a frame before its bus write, never after a bus write without one. -/
theorem FramedRows.of_isPrefix {done rows : List CallRow} (h : FramedRows rows) (hp : done <+: rows) :
    FramedRows done := by
  obtain ⟨rest, rfl⟩ := hp
  rw [FramedRows, List.map_append] at h
  exact framedAfter_of_append h

theorem framedRows_cmdRows (b func : Byte) : FramedRows (cmdRows b func) := rfl

theorem framedRows_dataRows (run : List Byte) (func : Byte) : FramedRows (dataRows run func) := rfl

theorem framedRows_positionRows (p : Params) (x y func : Byte) : FramedRows (positionRows p x y func) :=
  (framedRows_cmdRows ..).append (framedRows_cmdRows ..)

theorem framedRows_clearRows (p : Params) (func : Byte) : FramedRows (clearRows p func) :=
  (framedRows_dataRows ..).append (framedRows_positionRows ..)

theorem framedRows_contrastRows (contrast bias temp func : Byte) : FramedRows (contrastRows contrast bias temp func) :=
  ((((framedRows_cmdRows ..).append (framedRows_cmdRows ..)).append (framedRows_cmdRows ..)).append
    (framedRows_cmdRows ..)).append (framedRows_cmdRows ..)

theorem framedRows_initRows (p : Params) : FramedRows (initRows p) :=
  (((framedRows_cmdRows ..).append (framedRows_contrastRows ..)).append (framedRows_cmdRows ..)).append
    (framedRows_clearRows ..)

/-- Every expanded step list is made of frames, reset writes and delays. -/
theorem framedRows_of_stepList {p : Params} {i : Instr} {func : Byte} {rows : List CallRow}
    (h : stepList p i func = some rows) : FramedRows rows := by
  cases i with
  | lcdReset => cases h; rfl
  | lcdInit => cases h; exact framedRows_initRows p
  | lcdAddressingHorizontal horizontal => cases h; exact framedRows_cmdRows ..
  | lcdContrast contrast bias temp => cases h; exact framedRows_contrastRows ..
  | lcdPosition x y => cases h; exact framedRows_positionRows ..
  | lcdClear => cases h; exact framedRows_clearRows ..
  | lcdData run => cases h; exact framedRows_dataRows ..
  | _ => exact nomatch h

/-- An operation of the Controller adds the first calls of its step list. -/
theorem exec_controllerOp_framed {i : Instr} {s t : State} (hi : isControllerOp i = true) (h : Framed s)
    (he : exec i s = .next t) : Framed t := by
  obtain ⟨rows, hrows⟩ := stepList_of_controllerOp hi s.cfg s.func
  obtain ⟨done, hp, htrace, -⟩ := exec_calledFirst hrows he
  rw [Framed, htrace]
  exact framedAfter_append h ((framedRows_of_stepList hrows).of_isPrefix hp)

theorem step_framed {s t : State} (h : Framed s) (hs : step s = .next t) : Framed t := by
  rcases step_calls_cases hs with ⟨htrace, -⟩ | ⟨p, rest, hi, he⟩
  · rwa [Framed, htrace]
  · exact exec_controllerOp_framed (s := takeRequest p rest s) hi h he

/-! ## Every byte of a frame has the fixed bits of its command (R99 to R103, R220) -/

theorem decodes_of_ok {w : WireByte} {i : Instr} (h : decodeWire w = .ok i) : decodes w = true := by
  rw [decodes, h]

/-- Written with command/data-select high, a byte is a data byte whatever its frame (R98). -/
theorem decodes_of_high (frame : Frame) (b : Byte) : decodes { dc := .high, byte := b, frame := frame } = true := rfl

theorem decodes_funcByte {s : State} (h : FuncLegal s) : decodes (commandByte .functionSet s.func) = true := by
  rcases h with h | h | h | h <;> rw [h] <;> rfl

theorem decodes_vopByte (contrast : Byte) : decodes (commandByte .setVop (vopByte contrast)) = true := by
  have bits : ∀ c : Byte, vopByte c = 1#1 ++ c.setWidth 7 := by decide
  rw [bits]
  exact decodes_of_ok (decodeWire_setVop _)

theorem decodes_columnByte {p : Params} (h : p.legal = true) (x : Byte) :
    decodes (commandByte .setX (columnByte p x)) = true := by
  rw [columnByte_of_legal h]
  exact decodes_of_ok (decodeWire_setX _)

/-- Under a mask of three operand bits the bank byte is the row's `01000yyy`; that the mask may keep bit 6 too makes no
difference, for it is set in the byte anyway (D6). -/
theorem bankByte_of_narrowMask {p : Params} (h : p.yMask &&& 0xBF = 0x07) (y : Byte) :
    bankByte p y = 0x08#5 ++ y.setWidth 3 := by
  have masks : ∀ m : Byte, m &&& 0xBF = 0x07 → m = 0x07 ∨ m = 0x47 := by decide
  have bits : ∀ y : Byte, 0x40 ||| (y &&& 0x07) = 0x08#5 ++ y.setWidth 3 ∧
      0x40 ||| (y &&& 0x47) = 0x08#5 ++ y.setWidth 3 := by decide
  rcases masks _ h with e | e <;> rw [bankByte, e]
  · exact (bits y).1
  · exact (bits y).2

theorem decodes_bankByte {p : Params} (h : p.yMask &&& 0xBF = 0x07) (y : Byte) :
    decodes (commandByte .setY (bankByte p y)) = true := by
  rw [bankByte_of_narrowMask h]
  exact decodes_of_ok (decodeWire_setY _)

/-! ## The wire holds instructions of the device (R106)

What the capability calls and the frames keep; `FUNC` is kept legal with it, for its value is a byte of a frame. -/

/-- `FUNC` is a Function Set byte, and every byte on the wire an instruction of the device. -/
def BytesOk (s : State) : Prop := FuncLegal s ∧ WireOk s

theorem bytesOk_congr {s t : State} (h : BytesOk s) (hfunc : t.func = s.func) (hwire : t.wire = s.wire) : BytesOk t :=
  ⟨funcLegal_congr h.1 hfunc, by rw [WireOk, hwire]; exact h.2⟩

@[simp] theorem driveDc_wire (level : Level) (n : Nat) (s : State) : (driveDc level n s).wire = s.wire := by
  unfold driveDc
  split <;> rfl

@[simp] theorem driveRst_wire (level : Level) (n : Nat) (s : State) : (driveRst level n s).wire = s.wire := by
  unfold driveRst
  split
  · rfl
  · split <;> rfl

theorem wireOk_deliver {s : State} {frame : Frame} {run : List Byte} (h : WireOk s)
    (hrun : ∀ b ∈ run, decodes { dc := s.dcPin, byte := b, frame := frame } = true) (n : Nat) :
    WireOk (deliver frame run n s) := by
  intro w hw
  rw [deliver_wire, List.mem_append, List.mem_map] at hw
  rcases hw with hw | ⟨b, hb, rfl⟩
  · exact h w hw
  · exact hrun b (List.mem_of_mem_take hb)

section
variable {s : State} (h : BytesOk s)
include h

theorem dcSet_bytesOk (level : Level) : (dcSet level s).Holds BytesOk :=
  capabilityCall_holds (fun _ _ => h)
    (fun n t ht => bytesOk_congr ht (driveDc_func level n t) (driveDc_wire level n t)) fun _ ht => ht

theorem rstSet_bytesOk (level : Level) : (rstSet level s).Holds BytesOk :=
  capabilityCall_holds (fun _ _ => h)
    (fun n t ht => bytesOk_congr ht (driveRst_func level n t) (driveRst_wire level n t)) fun _ ht => ht

theorem delay_bytesOk (us : BitVec 32) : (delay us s).Holds BytesOk := by
  obtain ⟨as, n, e | e⟩ := delay_cases us s <;> rw [e]
  · exact goOn_holds h
  · exact h

/-- A bus write keeps it if the bytes of the run are instructions under the level of command/data-select. -/
theorem busWrite_bytesOk {frame : Frame} {run : List Byte}
    (hrun : ∀ b ∈ run, decodes { dc := s.dcPin, byte := b, frame := frame } = true) :
    (busWrite frame run s).Holds BytesOk :=
  (capabilityCall_holds (P := fun t => BytesOk t ∧ t.dcPin = s.dcPin) (effect := deliver frame run)
    (fun _ _ => ⟨h, rfl⟩)
    (fun n _ ht => ⟨⟨ht.1.1, wireOk_deliver ht.1.2 (ht.2 ▸ hrun) n⟩, ht.2⟩) fun _ ht => ht).mono fun _ ht => ht.1

/-- A command frame keeps it if its byte is a command; a data byte it is anyway, if the pin has not moved. -/
theorem cmdFrame_bytesOk {frame : Frame} {b : Byte} (hb : decodes (commandByte frame b) = true) :
    (cmdFrame frame b s).Holds BytesOk := by
  refine (dcSet_bytesOk h .low).andThen fun t ht => busWrite_bytesOk ht fun c hc => ?_
  rw [List.mem_singleton.1 hc]
  cases t.dcPin with
  | low => exact hb
  | high => exact decodes_of_high frame b

end

/-- Command/data-select has the level it was driven to, where the operation goes on. -/
theorem dcSet_going {level : Level} {s t : State} (h : dcSet level s = .going t) : t.dcPin = level := by
  obtain ⟨as, n, e | ⟨k, d, e⟩ | ⟨d, e⟩⟩ := capabilityCall_cases (.dc level) .dcPin 1 (driveDc level) s
  · rcases goOn_cases (advance (driveDc level 1 { record (.dc level) s with answers := as, draws := n })) with e' | e'
    · obtain rfl := Run.going.inj (h.symm.trans (e.trans e'))
      rfl
    · exact nomatch h.symm.trans (e.trans e')
  · exact nomatch h.symm.trans e
  · exact nomatch h.symm.trans e

/-- A data frame keeps it: its run is written only once command/data-select is high. -/
theorem dataFrame_bytesOk {s : State} (h : BytesOk s) (run : List Byte) : (dataFrame run s).Holds BytesOk := by
  have driven := dcSet_bytesOk h .high
  rw [dataFrame]
  cases hd : dcSet .high s with
  | going t =>
    rw [hd] at driven
    refine busWrite_bytesOk driven fun b _ => ?_
    rw [dcSet_going hd]
    exact decodes_of_high .data b
  | raised | abandoned | waiting => rw [hd] at driven; exact driven

/-- A Function Set frame of a legal value. -/
theorem sendFunc_bytesOk {s : State} {v : Byte} (h : BytesOk (setFunc v s)) : (sendFunc v s).Holds BytesOk :=
  cmdFrame_bytesOk h (decodes_funcByte h.1)

section
variable {s : State} (h : BytesOk s)
include h

theorem resetSteps_bytesOk (p : Params) : (resetSteps p s).Holds BytesOk :=
  (rstSet_bytesOk h _).andThen fun _ h =>
  (delay_bytesOk h _).andThen fun _ h =>
  (rstSet_bytesOk h _).andThen fun _ h =>
  (delay_bytesOk h _).andThen fun _ h =>
  (rstSet_bytesOk h _).andThen fun _ h =>
  delay_bytesOk h _

theorem addressingSteps_bytesOk (horizontal : Bool) : (addressingSteps horizontal s).Holds BytesOk :=
  sendFunc_bytesOk ⟨funcLegal_withHorizontal h.1 horizontal, h.2⟩

theorem contrastSteps_bytesOk (contrast bias temp : Byte) : (contrastSteps contrast bias temp s).Holds BytesOk :=
  (sendFunc_bytesOk ⟨funcLegal_withExtended h.1, h.2⟩).andThen fun _ h =>
  (cmdFrame_bytesOk h (frame := .temp) rfl).andThen fun _ h =>
  (cmdFrame_bytesOk h (frame := .bias) rfl).andThen fun _ h =>
  (cmdFrame_bytesOk h (decodes_vopByte contrast)).andThen fun _ h =>
  sendFunc_bytesOk ⟨funcLegal_withBasic h.1, h.2⟩

section
variable {p : Params} (hp : p.legal = true) (hm : p.yMask &&& 0xBF = 0x07)
include hp hm

theorem positionSteps_bytesOk (x y : Byte) : (positionSteps p x y s).Holds BytesOk :=
  (cmdFrame_bytesOk h (decodes_columnByte hp x)).andThen fun _ h => cmdFrame_bytesOk h (decodes_bankByte hm y)

theorem clearSteps_bytesOk : (clearSteps p s).Holds BytesOk :=
  (dataFrame_bytesOk h _).andThen fun _ h => positionSteps_bytesOk h hp hm 0 0

theorem initSteps_bytesOk : (initSteps p s).Holds BytesOk :=
  have restored : FuncLegal (setFunc p.funcReset s) :=
    (funcReset_of_legal hp).elim .inl fun e => .inr (.inr (.inl e))
  (addressingSteps_bytesOk ⟨restored, h.2⟩ true).andThen fun _ h =>
  (contrastSteps_bytesOk h _ _ _).andThen fun _ h =>
  (cmdFrame_bytesOk h (frame := .displayNormal) rfl).andThen fun _ h =>
  clearSteps_bytesOk h hp hm

end

end

/-- An operation puts no byte on the wire but in its steps; one that is abandoned empties the wire. -/
theorem operation_wireOk {i : Instr} {onOk : Ghosts → Ghosts} {steps : State → Run} {s t : State} (h : BytesOk s)
    (hsteps : (steps (accept i s)).Holds BytesOk) (he : operation i onOk steps s = .next t) : WireOk t := by
  rw [operation_next] at he
  obtain rfl := Host.Outcome.next.inj he
  have carried : ((goOn (accept i s)).andThen steps).Holds BytesOk := by
    rcases goOn_cases (accept i s) with e | e <;> rw [e]
    · exact hsteps
    · exact h
  cases hr : (goOn (accept i s)).andThen steps with
  | going u | raised k e u | waiting u => rw [hr] at carried; exact carried.2
  | abandoned u => exact fun _ hw => absurd hw List.not_mem_nil

section
variable {s t : State} (hc : s.cfg.legal = true) (hm : s.cfg.yMask &&& 0xBF = 0x07)
include hc hm

theorem exec_controllerOp_wireOk {i : Instr} (hi : isControllerOp i = true) (h : BytesOk s) (he : exec i s = .next t) :
    WireOk t := by
  have ha : BytesOk (accept i s) := h
  cases i with
  | lcdReset => exact operation_wireOk h (resetSteps_bytesOk ha _) he
  | lcdInit => exact operation_wireOk h (initSteps_bytesOk ha hc hm) he
  | lcdAddressingHorizontal horizontal => exact operation_wireOk h (addressingSteps_bytesOk ha horizontal) he
  | lcdContrast contrast bias temp => exact operation_wireOk h (contrastSteps_bytesOk ha contrast bias temp) he
  | lcdPosition x y => exact operation_wireOk h (positionSteps_bytesOk ha hc hm x y) he
  | lcdClear => exact operation_wireOk h (clearSteps_bytesOk ha hc hm) he
  | lcdData run => exact operation_wireOk h (dataFrame_bytesOk ha run) he
  | _ => exact Bool.noConfusion hi

theorem step_wireOk (h : BytesOk s) (hs : step s = .next t) : WireOk t := by
  rcases step_calls_cases hs with ⟨-, hwire⟩ | ⟨p, rest, hi, he⟩
  · exact fun w hw => h.2 w (hwire.subset hw)
  · exact exec_controllerOp_wireOk (s := takeRequest p rest s) hc hm hi h he

end

/-! ## What a request comes to (R91, R95) -/

/-- The place in the syntax of the operation that a word of the request port leads to: its low four bits, of which the
last four values share one row. -/
def selectedRow (w : Byte) : Nat := min (w &&& 0x0F).toNat 12

theorem ctorIdx_of_hostOp_row {i : Instr} (hi : (rowOf i).space = .hostOp) {w : Byte}
    (h : w &&& (rowOf i).mask = (rowOf i).pattern) : i.ctorIdx = selectedRow w := by
  cases i with
  | fbNew | fbSetPixel | fbClear | fbBytes | lcdReset | lcdInit | lcdAddressingHorizontal | lcdContrast | lcdPosition
  | lcdClear | lcdData | reserved0xB =>
    have low : w &&& 0x0F = _ := h
    rw [selectedRow, low]
    rfl
  | reserved0xCto0xF =>
    have last : ∀ w : Byte, w &&& 0x0C = 0x0C → 12 = selectedRow w := by decide
    exact last w h
  | functionSet | temp | bias | setVop | setX | setY | displayNormal | dataByte => exact nomatch hi

/-- A selector that is not reserved asks for an operation of the FrameBuffer or of the Controller. -/
theorem decodeRequest_kind {p : Params} {r : Request} (h : (p.row r.op).toNat < 0xB) :
    isFrameBufferOp (decodeRequest p r) = true ∨ isControllerOp (decodeRequest p r) = true := by
  have rows : ∀ k : BitVec 4, k.toNat < 0xB → k = 0x0 ∨ k = 0x1 ∨ k = 0x2 ∨ k = 0x3 ∨ k = 0x4 ∨ k = 0x5 ∨ k = 0x6 ∨
      k = 0x7 ∨ k = 0x8 ∨ k = 0x9 ∨ k = 0xA := by decide
  rcases rows _ h with h | h | h | h | h | h | h | h | h | h | h
  · rw [decodeRequest_fbNew h]; exact .inl rfl
  · rw [decodeRequest_fbSetPixel h]; exact .inl rfl
  · rw [decodeRequest_fbClear h]; exact .inl rfl
  · rw [decodeRequest_fbBytes h]; exact .inl rfl
  · rw [decodeRequest_lcdReset h]; exact .inr rfl
  · rw [decodeRequest_lcdInit h]; exact .inr rfl
  · rw [decodeRequest_lcdAddressingHorizontal h]; exact .inr rfl
  · rw [decodeRequest_lcdContrast h]; exact .inr rfl
  · rw [decodeRequest_lcdPosition h]; exact .inr rfl
  · rw [decodeRequest_lcdClear h]; exact .inr rfl
  · rw [decodeRequest_lcdData h]; exact .inr rfl

theorem exec_request_next {p : Params} {r : Request} (h : (p.row r.op).toNat < 0xB) (s : State) :
    ∃ t, exec (decodeRequest p r) s = .next t := by
  rcases decodeRequest_kind h with hi | hi
  · obtain ⟨_, _, e⟩ := exec_frameBufferOp hi s
    exact ⟨_, e⟩
  · exact exec_controllerOp_next hi s

/-- A selector that is reserved is refused, by its own number. -/
theorem exec_request_refused {p : Params} {r : Request} (h : 0xB ≤ (p.row r.op).toNat) (s : State) :
    exec (decodeRequest p r) s = .refused (.reservedSelector (p.row r.op)) := by
  have rows : ∀ k : BitVec 4, 0xB ≤ k.toNat → k = 0xB ∨ 0xC ≤ k.toNat ∧ 0x3#2 ++ k.setWidth 2 = k := by decide
  rcases rows _ h with h | ⟨h, number⟩
  · rw [decodeRequest_reserved0xB h, h]
    rfl
  · rw [decodeRequest_reserved0xCto0xF h]
    exact congrArg (fun k => Host.Outcome.refused (Refusal.reservedSelector k)) number

/-! ## `fb.draw` as requests (R141, D20) -/

/-- The request for a pixel. -/
def pixelRequest (p : Params) (x y : Int) (on : Bool) : Request :=
  { Request.plain (p.portNumber 0x1) with a := x, b := y, f := on }

theorem decodeRequest_pixelRequest {p : Params} (h : p.legal = true) {x y : Int} (hx : coordFits p.coordW x = true)
    (hy : coordFits p.coordW y = true) (on : Bool) : decodeRequest p (pixelRequest p x y on) = .fbSetPixel x y on := by
  have wide := coordW_of_legal h
  rw [decodeRequest_fbSetPixel (row_portNumber h _), pixelRequest, signedField_of_fits wide hx,
    signedField_of_fits wide hy]

/-- Requests that no one abandons. -/
def requested (requests : List Request) : List Pending := requests.map fun r => { request := r, abandonAt := none }

/-- Next at the port of an idle block, the request for a pixel is taken and draws it. -/
theorem step_pixelRequest {s : State} {x y : Int} {on : Bool} (hw : s.wire = []) (hseq : s.seq = none)
    (hplan : s.abandonAt = none) (hc : s.cfg.legal = true) (hx : coordFits s.cfg.coordW x = true)
    (hy : coordFits s.cfg.coordW y = true) (later : List Pending) :
    step { s with pending := { request := pixelRequest s.cfg x y on, abandonAt := none } :: later } =
      .next { respond .ok (setFb (drawPixel x y on s.fb) s) with pending := later } := by
  rw [step_of_request (by exact hw) (by exact hseq) rfl, decodeRequest_pixelRequest hc hx hy, ← hplan]
  rfl

/-- `fb.draw` comes to the state that the requests it stands for lead to, each in one step. -/
theorem draw_eq_run {s : State} {points : List (Int × Int × Bool)} (hw : s.wire = []) (hseq : s.seq = none)
    (hplan : s.abandonAt = none) (hc : s.cfg.legal = true)
    (hfit : ∀ p ∈ points, coordFits s.cfg.coordW p.1 = true ∧ coordFits s.cfg.coordW p.2.1 = true) :
    ∃ t, draw points s = .next t ∧ Host.Core.run core points.length
      { s with pending := requested (drawRequests s.cfg points) ++ s.pending } = .next t := by
  induction points generalizing s with
  | nil => exact ⟨s, rfl, rfl⟩
  | cons point rest ih =>
    obtain ⟨x, y, on⟩ := point
    obtain ⟨⟨hx, hy⟩, hrest⟩ := List.forall_mem_cons.1 hfit
    obtain ⟨t, drawn, ran⟩ := ih (s := respond .ok (setFb (drawPixel x y on s.fb) s)) hw hseq hplan hc hrest
    refine ⟨t, drawn, ?_⟩
    exact (run_succ_of_step (M := core) (step_pixelRequest hw hseq hplan hc hx hy _)).trans ran

end Sys2Proof.Machine

namespace Sys2Proof.Proofs

open Sys2Proof.Machine Sys2Proof.Safety

/-! ## The obligations of 30_encoding.md -/

/-- Settles O44: every frame's byte has the fixed bits of its command, and a data run is written only once
command/data-select is high. -/
theorem wireStaysDecodable : Obligations.WireStaysDecodable :=
  fun _ _ hc hm hf hw => step_wireOk hc hm ⟨hf, hw⟩

/-- Settles O45: an operation adds first calls of its step list, which is made of whole frames. -/
theorem traceStaysFramed : Obligations.TraceStaysFramed :=
  fun _ _ => step_framed

/-- Settles O3: a word of a row tells the row's place in the syntax. -/
theorem hostOpRowsDisjoint : Obligations.HostOpRowsDisjoint :=
  fun _ _ hi hj _ h h' => (ctorIdx_of_hostOp_row hi h).trans (ctorIdx_of_hostOp_row hj h').symm

/-- Settles O8, by the ways a step fetches: a byte always has a next state, and a request has one unless its selector is
reserved. -/
theorem stepStopsOnlyThere : Obligations.StepStopsOnlyThere := by
  intro s
  rcases hw : s.wire with _ | ⟨w, rest⟩
  · rcases hseq : s.seq with _ | k
    · rcases hp : s.pending with _ | ⟨p, rest⟩
      · exact .inl ⟨s, step_of_idle hw hseq hp⟩
      · rw [step_of_request hw hseq hp]
        by_cases reserved : 0xB ≤ (s.cfg.row p.request.op).toNat
        · exact .inr (.inr ⟨rfl, rfl, p, rest, rfl, reserved, exec_request_refused reserved _⟩)
        · exact .inl (exec_request_next (by omega) _)
    · exact .inr (.inl ⟨rfl, nofun, step_of_stuck hw hseq⟩)
  · cases hd : decodeWire w with
    | ok i =>
      obtain ⟨t, he, -⟩ := exec_decodeWire hd (takeByte rest s)
      exact .inl ⟨t, (step_of_wire hw hd).trans he⟩
    | error e => exact .inl ⟨_, step_of_unlisted hw hd⟩

/-- Settles O20, point by point: a request is taken and draws its pixel, as `fb.set_pixel` does. -/
theorem drawIsItsRequests : Obligations.DrawIsItsRequests :=
  fun _ _ => draw_eq_run

/-- Settles O4, each word by the decoder's equation of its row. -/
theorem wordsOfTheTables : Obligations.WordsOfTheTables :=
  ⟨by decide, by decide, by decide, by decide, decodeWire_functionSetByte false true false, decodeWire_setVop 0x3F,
    decodeWire_setX 83, decodeWire_setY 5, rfl, rfl⟩

/-- Settles O9: the meanings of the two reserved rows read no state. -/
theorem reservedSelectorsRefused : Obligations.ReservedSelectorsRefused :=
  fun _ => ⟨rfl, fun _ => rfl⟩

/-- Settles O51: out of reset the byte has its effect, which in the basic set is the normal mode. -/
theorem displayNormalSetsMode : Obligations.DisplayNormalSetsMode := by
  intro s hs hbasic
  rw [exec_displayNormal hs, normalMode, hbasic]
  rfl

end Sys2Proof.Proofs

end

/-! PROOFS. The obligations of 40_framebuffer_ops.md, after the lemmas they rest on: what an operation of the
FrameBuffer does with `FB`; which error kinds the calls of a step list raise. -/

section

namespace Sys2Proof.Machine

open Sys2Proof.Safety

/-! ## An operation of the FrameBuffer is a function of `FB` (R130) -/

/-- What is written to `FB`, what is answered and that it is no error are settled before the state is known. -/
theorem exec_frameBufferOp_function {i : Instr} (hi : isFrameBufferOp i = true) :
    ∃ (after : Mem → Mem) (answer : Mem → Response),
      (∀ s, exec i s = .next (respond (answer s.fb) (setFb (after s.fb) s))) ∧
        ∀ m p, responseStatus p (answer m) = 0 := by
  cases i with
  | fbNew => exact ⟨fun _ => fbFill 0x00, fun _ => .ok, fun _ => rfl, fun _ _ => rfl⟩
  | fbSetPixel x y on => exact ⟨drawPixel x y on, fun _ => .ok, fun _ => rfl, fun _ _ => rfl⟩
  | fbClear on => exact ⟨fun _ => fbFill (fillByte on), fun _ => .ok, fun _ => rfl, fun _ _ => rfl⟩
  | fbBytes => exact ⟨id, fun m => .bytes (fbAll m), fun _ => rfl, fun _ _ => rfl⟩
  | _ => exact Bool.noConfusion hi

/-! ## The bytes of `FB` after a fill (R131, R139, R140) -/

@[simp] theorem fbAll_length (m : Mem) : (fbAll m).length = 504 := by
  simp [fbAll]

theorem fbAll_fbFill (v : Byte) : fbAll (fbFill v) = List.replicate 504 v := by
  refine List.eq_replicate_iff.2 ⟨fbAll_length _, fun b hb => ?_⟩
  obtain ⟨i, hi, rfl⟩ := List.mem_map.1 hb
  exact fbRead_fbFill v i (List.mem_range.1 hi)

/-! ## What a pixel writes, and the surface (R132, R135, R136, R142) -/

theorem pixelMask_eq_shiftLeft (y : Nat) : pixelMask y = 1#8 <<< (7 - y % 8) :=
  (pixelMask_eq_twoPow y).trans (BitVec.twoPow_eq ..)

/-- After a pixel has been drawn its byte has its bit written, and every other byte is as before (R136). -/
theorem fbRead_drawPixel {x y : Nat} (hx : x < 84) (hy : y < 48) (on : Bool) (m : Mem) (j : Nat) :
    fbRead (drawPixel x y on m) j =
      if j = pixelIndex x y then pixelByte (fbRead m (pixelIndex x y)) y on else fbRead m j := by
  rw [drawPixel_of_lt hx hy, fbRead_fbWrite]

theorem pixelInRange_iff (x y : Int) : pixelInRange x y = true ↔ 0 ≤ x ∧ x < 84 ∧ 0 ≤ y ∧ y < 48 := by
  simp [pixelInRange, and_assoc]

/-- The bounding box is what the bounds test of `fb.set_pixel` tests. -/
theorem boundingBox_contains (x y : Int) : boundingBox.contains x y = pixelInRange x y := by
  simp [Rectangle.contains, boundingBox, pixelInRange]
  rfl

theorem drawPixel_of_outside {x y : Int} (h : pixelInRange x y = false) (on : Bool) (m : Mem) :
    drawPixel x y on m = m := by
  simp [drawPixel, h]

/-! ## Which error a Controller operation responds with (R240, R241) -/

theorem DeviceOnly.responses {s t : State} (h : DeviceOnly s t) : t.responses = s.responses := by
  rw [h]

theorem goOn_ne_raised {s t : State} {k : ErrKind} {e : ErrVal} : goOn s ≠ .raised k e t := by
  rcases goOn_cases s with h | h <;> rw [h] <;> nofun

theorem capabilityCall_raised {ev : Event} {kind k : ErrKind} {units : Nat} {effect : Nat → State → State}
    {s t : State} {e : ErrVal} (h : capabilityCall ev kind units effect s = .raised k e t) : kind = k := by
  obtain ⟨_, _, h' | ⟨_, _, h'⟩ | ⟨_, h'⟩⟩ := capabilityCall_cases ev kind units effect s
  · exact absurd (h'.symm.trans h) goOn_ne_raised
  · exact (Run.raised.inj (h'.symm.trans h)).1
  · exact nomatch h'.symm.trans h

theorem delay_ne_raised {us : BitVec 32} {s t : State} {k : ErrKind} {e : ErrVal} : delay us s ≠ .raised k e t := by
  obtain ⟨_, _, h | h⟩ := delay_cases us s <;> rw [h]
  · exact goOn_ne_raised
  · nofun

/-- A call that fails raises the kind of its row. -/
theorem makeCall_raised {c : Call} {s t : State} {k : ErrKind} {e : ErrVal} (h : makeCall c s = .raised k e t) :
    errorOf c.row.event = some k := by
  obtain ⟨⟨ev, func⟩, frame⟩ := c
  cases ev with
  | rst level => exact congrArg some (capabilityCall_raised (effect := driveRst level) h)
  | dc level => exact congrArg some (capabilityCall_raised (effect := driveDc level) h)
  | bus run => exact congrArg some (capabilityCall_raised (effect := deliver frame run) h)
  | dly us => exact absurd h delay_ne_raised

/-- The error kinds the calls of these rows can raise. -/
def errorKinds (rows : List CallRow) : List ErrKind := rows.filterMap fun row => errorOf row.event

theorem makeCalls_raised {calls : List Call} {s t : State} {k : ErrKind} {e : ErrVal}
    (h : makeCalls calls s = .raised k e t) : k ∈ errorKinds (calls.map Call.row) := by
  induction calls generalizing s with
  | nil => exact nomatch h
  | cons c rest ih =>
    rw [List.map_cons, errorKinds, List.mem_filterMap]
    rw [makeCalls_cons] at h
    cases hc : makeCall c s with
    | going u =>
      rw [hc] at h
      obtain ⟨row, hrow, hk⟩ := List.mem_filterMap.1 (ih h)
      exact ⟨row, List.mem_cons_of_mem _ hrow, hk⟩
    | raised k' e' u =>
      rw [hc] at h
      cases h
      exact ⟨c.row, List.mem_cons_self, makeCall_raised hc⟩
    | abandoned | waiting => rw [hc] at h; exact nomatch h

/-- A run that leaves the responses adds an error response only by the abort, with the error it has raised. -/
theorem raised_of_conclude_error {onOk : Ghosts → Ghosts} {r : Run} {responses : List Response} {k : ErrKind}
    {e : ErrVal} (hr : r.Holds fun u => u.responses = responses)
    (h : (conclude onOk r).responses = responses ++ [.error k e]) : ∃ u, r = .raised k e u := by
  cases r with
  | going u =>
    obtain rfl : u.responses = responses := hr
    exact nomatch List.append_cancel_left (show u.responses ++ [.ok] = _ from h)
  | raised k' e' u =>
    obtain rfl : u.responses = responses := hr
    cases List.append_cancel_left (show u.responses ++ [.error k' e'] = _ from h)
    exact ⟨u, rfl⟩
  | abandoned u | waiting u =>
    obtain rfl : u.responses = responses := hr
    exact absurd (show u.responses = _ from h) (by simp)

/-- An error response is of the kind of a call of the operation's step list. -/
theorem exec_error_mem {i : Instr} {s t : State} {rows : List CallRow} {k : ErrKind} {e : ErrVal}
    (hrows : stepList s.cfg i s.func = some rows) (he : exec i s = .next t)
    (h : t.responses = s.responses ++ [.error k e]) : k ∈ errorKinds rows := by
  obtain ⟨onOk, calls, rfl, e'⟩ := exec_makesCalls hrows
  rw [e', operation_next] at he
  obtain rfl := Host.Outcome.next.inj he
  rcases goOn_cases (accept i s) with hgo | hgo <;> rw [hgo] at h
  · have kept : (makeCalls calls (accept i s)).Holds fun u => u.responses = s.responses :=
      (makeCalls_calledFirst calls (accept i s)).mono fun _ ⟨_, _, hu⟩ => hu.responses
    obtain ⟨u, hu⟩ := raised_of_conclude_error kept h
    exact makeCalls_raised hu
  · obtain ⟨u, hu⟩ := raised_of_conclude_error (r := .abandoned (accept i s)) (responses := s.responses) rfl h
    exact nomatch hu

/-- Every call of `lcd.reset` that can fail is a reset write, and no other operation makes one. -/
theorem rstPin_iff_lcdReset {p : Params} {i : Instr} {func : Byte} {rows : List CallRow} {k : ErrKind}
    (hrows : stepList p i func = some rows) (hk : k ∈ errorKinds rows) : k = .rstPin ↔ i = .lcdReset := by
  have frames (hi : i ≠ .lcdReset) (hframes : ErrKind.rstPin ∉ errorKinds rows) : k = .rstPin ↔ i = .lcdReset :=
    ⟨fun h => absurd (h ▸ hk) hframes, fun h => absurd h hi⟩
  cases i with
  | lcdReset =>
    cases hrows
    simpa [errorKinds, errorOf, resetRows] using hk
  | lcdInit | lcdAddressingHorizontal | lcdContrast | lcdPosition | lcdClear | lcdData =>
    cases hrows
    refine frames nofun ?_
    simp [errorKinds, errorOf, initRows, addressingRows, contrastRows, clearRows, positionRows, dataRows, cmdRows]
  | _ => exact nomatch hrows

/-- A response of status 0 under every set of parameters is no error. -/
theorem ne_error_of_status {r : Response} (h : ∀ p, responseStatus p r = 0) (k : ErrKind) (e : ErrVal) :
    r ≠ .error k e := by
  rintro rfl
  have coded : ∀ k, Params.default.errCode k ≠ 0 := by intro k; cases k <;> decide
  exact coded k (h Params.default)

/-- Only an operation of the Controller responds with an error (R130). -/
theorem controllerOp_of_error {i : Instr} {s t : State} {k : ErrKind} {e : ErrVal} (he : exec i s = .next t)
    (h : t.responses = s.responses ++ [.error k e]) : isControllerOp i = true := by
  rcases kind_of_exec_next he with hi | hi | hi
  · obtain ⟨after, answer, exec_eq, status⟩ := exec_frameBufferOp_function hi
    obtain rfl := Host.Outcome.next.inj (he.symm.trans (exec_eq s))
    exact absurd (List.singleton_inj.1 (List.append_cancel_left h)) (ne_error_of_status (status s.fb) k e)
  · exact hi
  · obtain ⟨u, hu, only⟩ := exec_busInstr hi s
    obtain rfl := Host.Outcome.next.inj (he.symm.trans hu)
    exact absurd (only.responses.symm.trans h) (by simp)

end Sys2Proof.Machine

namespace Sys2Proof.Proofs

open Sys2Proof.Machine Sys2Proof.Safety

/-! ## The obligations of 40_framebuffer_ops.md -/

/-- Settles O14: the one byte written is the pixel's, ORed with the mask or ANDed with its complement. -/
theorem setPixelDraws : Obligations.SetPixelDraws := by
  intro s x y on hx hy u i mask
  have unrotated : u ≤ 503 := by omega
  refine ⟨by omega, unrotated, pixelMask_eq_shiftLeft y, _, rfl, rfl, ?_, fun j hj => ?_⟩
  · exact (fbRead_drawPixel hx hy on s.fb i).trans (if_pos rfl)
  · exact (fbRead_drawPixel hx hy on s.fb j).trans (if_neg hj)

/-- Settles O19, by the two functions of each operation. -/
theorem frameBufferOpsTouchFrameBufferOnly : Obligations.FrameBufferOpsTouchFrameBufferOnly := by
  intro i hi
  obtain ⟨after, answer, exec_eq, status⟩ := exec_frameBufferOp_function hi
  exact ⟨after, answer, fun s => ⟨exec_eq s, status s.fb⟩⟩

/-- Settles O35: the error is one that a call of the step list raises, and the reset writes are those of `lcd.reset`. -/
theorem errorKindsPerOperation : Obligations.ErrorKindsPerOperation := by
  intro s t i k e he h
  have hi := controllerOp_of_error he h
  obtain ⟨rows, hrows⟩ := stepList_of_controllerOp hi s.cfg s.func
  exact ⟨hi, rstPin_iff_lcdReset hrows (exec_error_mem hrows he h)⟩

/-- Settles O13: the contents are those of a fill with 0x00. -/
theorem newZeroesFrameBuffer : Obligations.NewZeroesFrameBuffer := by
  refine ⟨fbFill 0x00, fbRead_fbFill 0x00, rfl, fun s => ⟨rfl, rfl, rfl, ?_⟩⟩
  rw [← fbAll_fbFill]
  rfl

/-- Settles O17: the contents are those of a fill with the byte of `on`. -/
theorem clearFillsFrameBuffer : Obligations.ClearFillsFrameBuffer :=
  fun on => ⟨fbFill (fillByte on), fbRead_fbFill (fillByte on), fun _ => rfl⟩

/-- Settles O18: the payload is the reading of `FB` at each index. -/
theorem bytesReadsFrameBuffer : Obligations.BytesReadsFrameBuffer :=
  fun s => ⟨fbAll s.fb, fbAll_length s.fb, fun i hi => fbAll_getElem s.fb ⟨i, hi⟩, rfl⟩

/-- Settles O21: the box and the bounds test are one, and where the test fails nothing is drawn. -/
theorem boundingBoxIsSurface : Obligations.BoundingBoxIsSurface := by
  refine ⟨rfl, fun x y => ?_⟩
  rw [boundingBox_contains]
  refine ⟨pixelInRange_iff x y, fun outside s on => ?_⟩
  show Host.Outcome.next (respond .ok (setFb (drawPixel x y on s.fb) s)) = _
  rw [drawPixel_of_outside outside]
  rfl

end Sys2Proof.Proofs

end

/-! PROOFS. The obligations of 41_frame_primitives.md, after the lemmas they rest on: a frame whose pin write or bus write
fails; an operation whose answers are all `ok`; `lcd.refresh` as the two operations it stands for. -/

section

namespace Sys2Proof.Machine

open Sys2Proof.Safety

/-! ## A frame that fails (R161, R162, R246) -/

theorem dcSet_fail {level : Level} {s : State} {e : ErrVal} {d : Nat} {rest : List Answer}
    (h : s.answers = .fail e d :: rest) :
    dcSet level s = .raised .dcPin e { s with
      trace := s.trace ++ [.dc level], answers := rest, dcPin := if d = 0 then s.dcPin else level } := by
  rw [dcSet, capabilityCall_fail h]
  by_cases hd : d = 0 <;> simp [driveDc, hd, record]

/-- Of a run whose write fails, the environment says how many bytes are delivered (R246). -/
theorem busWrite_fail {frame : Frame} {run : List Byte} {s : State} {e : ErrVal} {d : Nat} {rest : List Answer}
    (h : s.answers = .fail e d :: rest) :
    busWrite frame run s = .raised .bus e { s with
      trace := s.trace ++ [.bus run], answers := rest,
      wire := s.wire ++ (run.take d).map (fun b => { dc := s.dcPin, byte := b, frame := frame }) } := by
  rw [busWrite, capabilityCall_fail h, List.take_eq_take_min]
  rfl

/-- A data frame whose pin write fails makes no bus write (R167). -/
theorem dataFrame_pin_fail {run : List Byte} {s : State} {e : ErrVal} {d : Nat} {rest : List Answer}
    (h : s.answers = .fail e d :: rest) :
    dataFrame run s = .raised .dcPin e { s with
      trace := s.trace ++ [.dc .high], answers := rest, dcPin := if d = 0 then s.dcPin else .high } := by
  rw [dataFrame, dcSet_fail h, andThen_raised]

theorem dataFrame_bus_fail {run : List Byte} {s : State} {e : ErrVal} {d : Nat} {rest : List Answer}
    (h : s.answers = .ok :: .fail e d :: rest) (ha : s.abandonAt = none) :
    dataFrame run s = .raised .bus e { s with
      trace := s.trace ++ [.dc .high, .bus run], answers := rest, dcPin := .high, seq := s.seq.map Position.next,
      wire := s.wire ++ (run.take d).map (fun b => { dc := .high, byte := b, frame := .data }) } := by
  rw [dataFrame, dcSet_ok (h ▸ startsOk_one _) ha, andThen_going, busWrite_fail (congrArg (List.drop 1) h)]
  simp

/-! ## Operations whose calls all return `ok` -/

/-- `lcd.data` of any run (R168). -/
theorem exec_lcdData_ok {run : List Byte} {s : State} {rest : List Answer} (h : RunsThrough 2 rest s) :
    exec (.lcdData run) s = .next { s with
      trace := s.trace ++ [.dc .high, .bus run], wire := s.wire ++ dataBytes run, answers := rest, dcPin := .high,
      responses := s.responses ++ [.ok], seq := none } := by
  obtain ⟨answers, plan⟩ := h
  show operation (.lcdData run) ghostsKept (dataFrame run) s = _
  rw [operation_of_not_abandoned plan,
    dataFrame_ok (s := accept (.lcdData run) s) (answers ▸ startsOk_replicate 2 rest) plan, plan, accept_answers, answers]
  rfl

/-- `lcd.position` of any operands (R194). -/
theorem exec_lcdPosition_ok {x y : Byte} {s : State} {rest : List Answer} (h : RunsThrough 4 rest s) :
    exec (.lcdPosition x y) s = .next { s with
      trace := s.trace ++ [.dc .low, .bus [columnByte s.cfg x], .dc .low, .bus [bankByte s.cfg y]],
      wire := s.wire ++ [commandByte .setX (columnByte s.cfg x), commandByte .setY (bankByte s.cfg y)], answers := rest,
      dcPin := .low, responses := s.responses ++ [.ok], seq := none } := by
  obtain ⟨answers, plan⟩ := h
  have answers : s.answers = .ok :: .ok :: .ok :: .ok :: rest := answers
  show operation (.lcdPosition x y) ghostsKept (positionSteps s.cfg x y) s = _
  rw [operation_of_not_abandoned plan]
  simp [positionSteps, cmdFrame_ok, answers, plan, complete, ghostsKept, ghosts, idle, respond, commandByte]

/-- `lcd.flush`, which is `lcd.data` of the bytes of `FB` (R169). -/
theorem flush_ok {s : State} {rest : List Answer} (h : RunsThrough 2 rest s) :
    flush s = .next { s with
      trace := s.trace ++ [.dc .high, .bus (fbAll s.fb)], wire := s.wire ++ dataBytes (fbAll s.fb), answers := rest,
      dcPin := .high, responses := s.responses ++ [.bytes (fbAll s.fb), .ok], seq := none } := by
  rw [flush_eq, exec_lcdData_ok (s := respond (.bytes (fbAll s.fb)) s) h]
  simp [respond]

/-! ## `lcd.refresh` by its expansion (R170) -/

/-- Once `lcd.position(0, 0)` has responded `OK`, `lcd.refresh` is `lcd.flush`. -/
theorem refresh_of_positioned {s t : State} (h : exec (.lcdPosition 0 0) s = .next t) (hidle : t.seq = none)
    (hok : t.responses = s.responses ++ [.ok]) : refresh s = flush t := by
  have positioned : execLcdPosition 0 0 s = .next t := h
  rw [refresh, positioned]
  exact if_pos ⟨hidle, hok⟩

end Sys2Proof.Machine

namespace Sys2Proof.Proofs

open Sys2Proof.Machine Sys2Proof.Safety

/-! ## The obligations of 41_frame_primitives.md -/

/-- Settles O31, by the three ways its one data frame can go. -/
theorem dataSendsOneFrame : Obligations.DataSendsOneFrame := by
  intro s run plan
  have runs : exec (.lcdData run) s = .next (conclude ghostsKept (dataFrame run (accept (.lcdData run) s))) :=
    operation_of_not_abandoned plan
  refine ⟨fun rest h => exec_lcdData_ok ⟨h, plan⟩, fun e d rest h => ?_, fun e d rest h => ?_⟩
  · rw [runs, dataFrame_pin_fail (s := accept (.lcdData run) s) h]
    exact ⟨_, rfl, rfl, rfl, rfl, rfl, rfl⟩
  · rw [runs, dataFrame_bus_fail (s := accept (.lcdData run) s) h plan]
    exact ⟨_, rfl, rfl, rfl, rfl, rfl, rfl⟩

/-- Settles O32: the position operation responds `OK`, so that the bytes of `FB` follow; operand 0 is 0 under every
mask. -/
theorem refreshSendsFrameBuffer : Obligations.RefreshSendsFrameBuffer := by
  rintro s rest ⟨answers, plan⟩
  have positioned := exec_lcdPosition_ok (x := 0) (y := 0) (rest := .ok :: .ok :: rest) ⟨answers, plan⟩
  rw [columnByte_zero, bankByte_zero] at positioned
  exact ⟨_, (refresh_of_positioned positioned rfl rfl).trans (flush_ok ⟨rfl, plan⟩), List.append_assoc .., rfl, rfl, rfl,
    rfl⟩

end Sys2Proof.Proofs

end

/-! PROOFS. The obligations of 42_controller_ops.md, after the lemmas they rest on: what steps leave that go through;
how an operation of the Controller ends; what the device makes of the bytes of each operation; the promise of `Ready`;
an operation of which one call fails, or which is abandoned; two runs with different pasts. -/

section

namespace Sys2Proof.Machine

open Sys2Proof.Safety

/-! ## Steps that go through (R165, R187)

What a list of steps leaves once every call of its rows has returned, whatever the answers were. -/

/-- The state once the calls of these rows have gone through: they have put these bytes on the wire, and left
command/data-select at this level; these answers are still to come, and so many free values drawn. -/
def passed (rows : List CallRow) (bytes : List WireByte) (level : Level) (answers : List Answer) (draws : Nat)
    (s : State) : State :=
  { s with func := funcAfter rows s.func, trace := s.trace ++ rows.map CallRow.event, wire := s.wire ++ bytes,
           dcPin := level, seq := s.seq.map Position.next^[rows.length], answers := answers, draws := draws }

/-- From a state with this `FUNC`, the steps make the calls of these rows and send these bytes if they go on, and they
do go on where every answer is `ok`. -/
structure GoesThrough (func : Byte) (rows : List CallRow) (bytes : List WireByte) (level : Level)
    (steps : State → Run) : Prop where
  going : ∀ s t, s.func = func → steps s = .going t →
    ∃ as n, t = passed rows bytes level as n s
  ok : ∀ s rest, s.func = func → RunsThrough rows.length rest s →
    steps s = .going (passed rows bytes level rest s.draws s)

theorem passed_passed (rows rows' : List CallRow) (bytes bytes' : List WireByte) (level level' : Level)
    (as as' : List Answer) (n n' : Nat) (s : State) :
    passed rows' bytes' level' as' n' (passed rows bytes level as n s) =
      passed (rows ++ rows') (bytes ++ bytes') level' as' n' s := by
  simp [passed, funcAfter_append, Option.map_map, ← Function.iterate_add, Nat.add_comm]

theorem goOn_going {s t : State} (h : goOn s = .going t) : t = s := by
  rcases goOn_cases s with e | e
  · exact (Run.going.inj (e.symm.trans h)).symm
  · exact nomatch e.symm.trans h

theorem andThen_eq_going {r : Run} {f : State → Run} {t : State} (h : r.andThen f = .going t) :
    ∃ u, r = .going u ∧ f u = .going t := by
  cases r with
  | going u => exact ⟨u, rfl, h⟩
  | raised | abandoned | waiting => exact nomatch h

/-- A call that goes on has had its whole effect. -/
theorem capabilityCall_going {ev : Event} {kind : ErrKind} {units : Nat} {effect : Nat → State → State} {s t : State}
    (h : capabilityCall ev kind units effect s = .going t) :
    ∃ as n, t = advance (effect units { record ev s with answers := as, draws := n }) := by
  obtain ⟨as, n, e | ⟨_, _, e⟩ | ⟨_, e⟩⟩ := capabilityCall_cases ev kind units effect s
  · exact ⟨as, n, goOn_going (e.symm.trans h)⟩
  · exact nomatch e.symm.trans h
  · exact nomatch e.symm.trans h

section
variable {func : Byte} {rows : List CallRow} {bytes : List WireByte} {level : Level} {steps : State → Run}

theorem GoesThrough.congr {steps' : State → Run} (h : GoesThrough func rows bytes level steps)
    (e : ∀ s, s.func = func → steps' s = steps s) : GoesThrough func rows bytes level steps' where
  going s t hs ht := h.going s t hs ((e s hs).symm.trans ht)
  ok s rest hs hr := (e s hs).trans (h.ok s rest hs hr)

/-- Steps made one list after the other: the second begins with the `FUNC` that the first leaves. -/
theorem GoesThrough.andThen {rows' : List CallRow} {bytes' : List WireByte} {level' : Level} {steps' : State → Run}
    (h : GoesThrough func rows bytes level steps)
    (h' : GoesThrough (funcAfter rows func) rows' bytes' level' steps') :
    GoesThrough func (rows ++ rows') (bytes ++ bytes') level' fun s => (steps s).andThen steps' where
  going := by
    rintro s t rfl ht
    obtain ⟨u, hu, ht⟩ := andThen_eq_going ht
    obtain ⟨as, n, rfl⟩ := h.going s u rfl hu
    obtain ⟨as', n', rfl⟩ := h'.going _ t rfl ht
    exact ⟨as', n', passed_passed ..⟩
  ok := by
    rintro s rest rfl ⟨answers, plan⟩
    rw [List.length_append, List.replicate_add, List.append_assoc] at answers
    show (steps s).andThen steps' = _
    rw [h.ok s _ rfl ⟨answers, plan⟩, andThen_going,
      h'.ok (passed rows bytes level (List.replicate rows'.length Answer.ok ++ rest) s.draws s) rest rfl ⟨rfl, plan⟩]
    exact congrArg Run.going (passed_passed ..)

/-- A command frame, after `FUNC` has been given a value. -/
theorem goesThrough_setFunc_cmdFrame (func v : Byte) (frame : Frame) (b : Byte) :
    GoesThrough func (cmdRows b v) [commandByte frame b] .low fun s => cmdFrame frame b (setFunc v s) where
  going := by
    rintro s t - ht
    obtain ⟨u, hu, ht⟩ := andThen_eq_going ht
    obtain ⟨_, _, rfl⟩ := capabilityCall_going hu
    obtain ⟨as, n, rfl⟩ := capabilityCall_going ht
    exact ⟨as, n, by simp [advance, deliver, record, driveDc, setFunc, passed, cmdRows, funcAfter, commandByte]⟩
  ok := by
    rintro s rest - ⟨answers, plan⟩
    have answers : s.answers = .ok :: .ok :: rest := answers
    simp [cmdFrame_ok, answers, plan, setFunc, passed, cmdRows, funcAfter, commandByte, Function.comp_def]

theorem goesThrough_cmdFrame (func : Byte) (frame : Frame) (b : Byte) :
    GoesThrough func (cmdRows b func) [commandByte frame b] .low (cmdFrame frame b) :=
  (goesThrough_setFunc_cmdFrame func func frame b).congr (by rintro s rfl; rfl)

theorem goesThrough_dataFrame (func : Byte) (run : List Byte) :
    GoesThrough func (dataRows run func) (dataBytes run) .high (dataFrame run) where
  going := by
    rintro s t rfl ht
    obtain ⟨u, hu, ht⟩ := andThen_eq_going ht
    obtain ⟨_, _, rfl⟩ := capabilityCall_going hu
    obtain ⟨as, n, rfl⟩ := capabilityCall_going ht
    exact ⟨as, n, by simp [advance, deliver, record, driveDc, passed, dataRows, funcAfter, dataBytes]⟩
  ok := by
    rintro s rest rfl ⟨answers, plan⟩
    have answers : s.answers = .ok :: .ok :: rest := answers
    simp [dataFrame_ok, answers, plan, passed, dataRows, funcAfter, dataBytes, Function.comp_def]

/-- A Function Set frame of a value read off `FUNC` (R188). -/
theorem goesThrough_changeFunc (func : Byte) (change : Byte → Byte) :
    GoesThrough func (cmdRows (change func) (change func)) [commandByte .functionSet (change func)] .low
      fun s => sendFunc (change s.func) s :=
  (goesThrough_setFunc_cmdFrame func (change func) .functionSet (change func)).congr (by rintro s rfl; rfl)

end

theorem goesThrough_addressingSteps (horizontal : Bool) (func : Byte) :
    GoesThrough func (addressingRows horizontal func) [commandByte .functionSet (withHorizontal func horizontal)] .low
      (addressingSteps horizontal) :=
  goesThrough_changeFunc func (withHorizontal · horizontal)

/-- The bytes of `lcd.contrast` (R192). -/
def contrastBytes (contrast bias temp func : Byte) : List WireByte :=
  [commandByte .functionSet (withExtended func), commandByte .temp temp, commandByte .bias bias,
   commandByte .setVop (vopByte contrast), commandByte .functionSet (withBasic (withExtended func))]

theorem goesThrough_contrastSteps (contrast bias temp func : Byte) :
    GoesThrough func (contrastRows contrast bias temp func) (contrastBytes contrast bias temp func) .low
      (contrastSteps contrast bias temp) :=
  (goesThrough_changeFunc func withExtended).andThen <|
  (goesThrough_cmdFrame _ .temp temp).andThen <|
  (goesThrough_cmdFrame _ .bias bias).andThen <|
  (goesThrough_cmdFrame _ .setVop (vopByte contrast)).andThen <|
  goesThrough_changeFunc _ withBasic

theorem goesThrough_positionSteps (p : Params) (x y func : Byte) :
    GoesThrough func (positionRows p x y func)
      [commandByte .setX (columnByte p x), commandByte .setY (bankByte p y)] .low (positionSteps p x y) :=
  (goesThrough_cmdFrame func .setX _).andThen (goesThrough_cmdFrame func .setY _)

/-- The bytes of `lcd.clear` (R195). -/
def clearBytes : List WireByte := dataBytes (List.replicate 504 0x00) ++ originBytes

theorem goesThrough_clearSteps (p : Params) (func : Byte) :
    GoesThrough func (clearRows p func) clearBytes .low (clearSteps p) := by
  have origin := goesThrough_positionSteps p 0 0 func
  rw [columnByte_zero, bankByte_zero] at origin
  exact (goesThrough_dataFrame func _).andThen origin

/-- The bytes of `lcd.init`, where `FUNC` is this value after its first frame (R187). -/
def initBytes (p : Params) (restored : Byte) : List WireByte :=
  commandByte .functionSet restored :: contrastBytes p.initVop p.initBias p.initTemp restored ++
    commandByte .displayNormal Config.displayNormal :: clearBytes

theorem goesThrough_initSteps (p : Params) (func : Byte) :
    GoesThrough func (initRows p) (initBytes p (withHorizontal p.funcReset true)) .low (initSteps p) :=
  have restored := (goesThrough_setFunc_cmdFrame func (withHorizontal p.funcReset true) .functionSet
    (withHorizontal p.funcReset true)).congr (steps' := fun s => addressingSteps true (setFunc p.funcReset s))
    fun _ _ => rfl
  restored.andThen <|
  (goesThrough_contrastSteps p.initVop p.initBias p.initTemp _).andThen <|
  (goesThrough_cmdFrame _ .displayNormal _).andThen <|
  goesThrough_clearSteps p _

/-! ## How an operation of the Controller ends (R201, R244, R249) -/

/-- What an operation makes of the ghosts when it responds `OK` (R201, R202). -/
def ghostsAfter (p : Params) (i : Instr) : Ghosts → Ghosts :=
  match i with
  | .lcdReset => afterReset
  | .lcdInit => afterInit p
  | .lcdContrast contrast bias temp => afterContrast contrast bias temp
  | _ => ghostsKept

/-- The steps of an operation of the Controller (R183 to R195). -/
def stepsOf (p : Params) (i : Instr) : State → Run :=
  match i with
  | .lcdReset => resetSteps p
  | .lcdInit => initSteps p
  | .lcdAddressingHorizontal horizontal => addressingSteps horizontal
  | .lcdContrast contrast bias temp => contrastSteps contrast bias temp
  | .lcdPosition x y => positionSteps p x y
  | .lcdClear => clearSteps p
  | .lcdData run => dataFrame run
  | _ => .going

theorem exec_eq_operation {i : Instr} (hi : isControllerOp i = true) (s : State) :
    exec i s = operation i (ghostsAfter s.cfg i) (stepsOf s.cfg i) s := by
  cases i with
  | lcdReset | lcdInit | lcdAddressingHorizontal | lcdContrast | lcdPosition | lcdClear | lcdData => rfl
  | _ => exact Bool.noConfusion hi

theorem makesCalls_stepsOf {p : Params} {i : Instr} {func : Byte} {rows : List CallRow}
    (h : stepList p i func = some rows) : MakesCalls func rows (stepsOf p i) := by
  cases i with
  | lcdReset => cases h; exact makesCalls_resetSteps p func
  | lcdInit => cases h; exact makesCalls_initSteps p func
  | lcdAddressingHorizontal horizontal => cases h; exact makesCalls_addressingSteps horizontal func
  | lcdContrast contrast bias temp => cases h; exact makesCalls_contrastSteps contrast bias temp func
  | lcdPosition x y => cases h; exact makesCalls_positionSteps p x y func
  | lcdClear => cases h; exact makesCalls_clearSteps p func
  | lcdData run => cases h; exact makesCalls_dataFrame func run
  | _ => exact nomatch h

/-- The state `t` lies within an operation accepted in `s`: no response yet, the ghosts as they were, and the sequencer
holds a position. -/
structure InProgress (s t : State) : Prop where
  responses : t.responses = s.responses
  ghosts : ghosts t = ghosts s
  seq : t.seq ≠ none

theorem InProgress.advance {s t : State} (h : InProgress s t) : InProgress s (advance t) where
  responses := h.responses
  ghosts := h.ghosts
  seq := by simpa using h.seq

theorem InProgress.outside {s t u : State} (h : InProgress s t) (hu : OutsideOnly t u) : InProgress s u := by
  rw [hu]
  exact ⟨h.responses, h.ghosts, h.seq⟩

theorem inProgress_accept (i : Instr) (s : State) : InProgress s (accept i s) := ⟨rfl, rfl, nofun⟩

theorem makeCall_inProgress (c : Call) {s t : State} (h : InProgress s t) : (makeCall c t).Holds (InProgress s) := by
  obtain ⟨⟨ev, func⟩, frame⟩ := c
  have recorded (as : List Answer) (n : Nat) :
      InProgress s { record ev (setFunc func t) with answers := as, draws := n } := ⟨h.responses, h.ghosts, h.seq⟩
  cases ev with
  | rst level =>
    exact capabilityCall_holds recorded (fun n u hu => hu.outside (driveRst_outsideOnly level n u))
      fun _ => InProgress.advance
  | dc level =>
    exact capabilityCall_holds recorded (fun n u hu => hu.outside (driveDc_outsideOnly level n u))
      fun _ => InProgress.advance
  | bus run =>
    exact capabilityCall_holds recorded (fun n u hu => hu.outside (deliver_outsideOnly frame run n u))
      fun _ => InProgress.advance
  | dly us =>
    show (delay us (setFunc func t)).Holds _
    obtain ⟨as, n, e | e⟩ := delay_cases us (setFunc func t) <;> rw [e]
    · exact goOn_holds (recorded as n).advance
    · exact recorded as n

theorem makeCalls_inProgress (calls : List Call) {s t : State} (h : InProgress s t) :
    (makeCalls calls t).Holds (InProgress s) := by
  induction calls generalizing t with
  | nil => exact h
  | cons c rest ih => exact (makeCall_inProgress c h).andThen fun _ => ih

/-- Everything an operation of the Controller can come to: its steps have gone through and it responds `OK`; or it is
aborted, is abandoned, or stays in progress. -/
theorem exec_outcomes {i : Instr} {s t : State} (hi : isControllerOp i = true) (he : exec i s = .next t) :
    (∃ u, stepsOf s.cfg i (accept i s) = .going u ∧ InProgress s u ∧ t = complete (ghostsAfter s.cfg i) u) ∨
      (∃ k e u, InProgress s u ∧ t = abort k e u) ∨ (∃ u, InProgress s u ∧ t = abandon u) ∨ InProgress s t := by
  rw [exec_eq_operation hi, operation_next] at he
  obtain rfl := Host.Outcome.next.inj he
  have accepted := inProgress_accept i s
  rcases goOn_cases (accept i s) with e | e <;> rw [e]
  · obtain ⟨rows, hrows⟩ := stepList_of_controllerOp hi s.cfg s.func
    obtain ⟨calls, -, hsteps⟩ := makesCalls_stepsOf hrows
    have made := makeCalls_inProgress calls accepted
    rw [← hsteps (accept i s) rfl] at made
    rw [andThen_going]
    cases hr : stepsOf s.cfg i (accept i s) with
    | going u => rw [hr] at made; exact .inl ⟨u, rfl, made, rfl⟩
    | raised k e u => rw [hr] at made; exact .inr (.inl ⟨k, e, u, made, rfl⟩)
    | abandoned u => rw [hr] at made; exact .inr (.inr (.inl ⟨u, made, rfl⟩))
    | waiting u => rw [hr] at made; exact .inr (.inr (.inr made))
  · exact .inr (.inr (.inl ⟨accept i s, accepted, rfl⟩))

/-! ## An operation whose frames go through -/

/-- The state once an operation has responded `OK`, its frames having gone through. -/
def respondedOk (onOk : Ghosts → Ghosts) (rows : List CallRow) (bytes : List WireByte) (level : Level)
    (answers : List Answer) (draws : Nat) (s : State) : State :=
  { s with func := funcAfter rows s.func, trace := s.trace ++ rows.map CallRow.event, wire := s.wire ++ bytes,
           dcPin := level, answers := answers, draws := draws, responses := s.responses ++ [.ok], seq := none,
           abandonAt := none, pst := (onOk (ghosts s)).pst, contrast := (onOk (ghosts s)).contrast }

theorem complete_passed (onOk : Ghosts → Ghosts) (rows : List CallRow) (bytes : List WireByte) (level : Level)
    (answers : List Answer) (draws : Nat) (i : Instr) (s : State) :
    complete onOk (passed rows bytes level answers draws (accept i s)) =
      respondedOk onOk rows bytes level answers draws s := rfl

/-- Nothing else was on the wire, so that the operation's bytes are all there is. -/
theorem respondedOk_wire {onOk : Ghosts → Ghosts} {rows : List CallRow} {bytes : List WireByte} {level : Level}
    {answers : List Answer} {draws : Nat} {s : State} (hw : s.wire = []) :
    (respondedOk onOk rows bytes level answers draws s).wire = bytes := by
  rw [respondedOk, hw, List.nil_append]

section
variable {i : Instr} {rows : List CallRow} {bytes : List WireByte} {level : Level} {s : State}
  (hi : isControllerOp i = true) (h : GoesThrough s.func rows bytes level (stepsOf s.cfg i))
include hi h

theorem exec_ok {rest : List Answer} (hr : RunsThrough rows.length rest s) :
    exec i s = .next (respondedOk (ghostsAfter s.cfg i) rows bytes level rest s.draws s) := by
  rw [exec_eq_operation hi, operation_of_not_abandoned hr.2, h.ok (accept i s) rest rfl hr, conclude_going,
    complete_passed]
  rfl

/-- Whatever the environment does, the operation responds `OK` with all frames through, or else `PST` is unknown, or it
is still in progress. -/
theorem exec_respondedOk_or {t : State} (he : exec i s = .next t) :
    (t.pst = .unknown ∨ t.seq ≠ none) ∨ ∃ as n, t = respondedOk (ghostsAfter s.cfg i) rows bytes level as n s := by
  rcases exec_outcomes hi he with ⟨u, hu, -, rfl⟩ | ⟨k, e, u, -, rfl⟩ | ⟨u, -, rfl⟩ | ht
  · obtain ⟨as, n, rfl⟩ := h.going (accept i s) u rfl hu
    exact .inr ⟨as, n, complete_passed ..⟩
  · exact .inl (.inl rfl)
  · exact .inl (.inl rfl)
  · exact .inl (.inr ht.seq)

end

/-! ## What the device makes of the bytes of a command -/

/-- A byte on the wire is always taken, and changes the device alone. -/
theorem step_byte {s : State} {w : WireByte} {rest : List WireByte} (hw : s.wire = w :: rest) :
    ∃ t, step s = .next t ∧ DeviceOnly (takeByte rest s) t := by
  cases hd : decodeWire w with
  | ok i => rw [step_of_wire hw hd]; exact exec_decodeWire hd _
  | error e => rw [step_of_unlisted hw hd]; exact execUnlisted_deviceOnly w _

/-- The device takes every byte delivered, and nothing else changes. -/
theorem settled_deviceOnly {s u : State} (h : settled s = .next u) : DeviceOnly (takeByte [] s) u := by
  generalize hw : s.wire = bytes
  induction bytes generalizing s with
  | nil =>
    obtain rfl := Host.Outcome.next.inj ((settled_of_drained hw).symm.trans h)
    rw [DeviceOnly, takeByte, ← hw]
  | cons w rest ih =>
    obtain ⟨t, hs, only⟩ := step_byte hw
    have later := ih ((settled_of_step hw hs only.wire).symm.trans h) only.wire
    rw [DeviceOnly, later, only]
    rfl

/-- Once it has taken every byte delivered, the device is like this. -/
def SettlesTo (P : Device → Prop) (s : State) : Prop := ∃ u, settled s = .next u ∧ P u.dev

theorem SettlesTo.of_settled {P : Device → Prop} {s t : State} (h : SettlesTo P t) (e : settled s = settled t) :
    SettlesTo P s := by
  rwa [SettlesTo, e]

theorem SettlesTo.mono {P Q : Device → Prop} {s : State} (h : SettlesTo P s) (hPQ : ∀ d, P d → Q d) : SettlesTo Q s :=
  h.imp fun _ hu => hu.imp_right (hPQ _)

theorem settlesTo_of_drained {P : Device → Prop} {s : State} (hw : s.wire = []) (h : P s.dev) : SettlesTo P s :=
  ⟨s, settled_of_drained hw, h⟩

theorem vopByte_eq_append (contrast : Byte) : vopByte contrast = 1#1 ++ contrast.setWidth 7 := by
  revert contrast
  decide

theorem decodeWire_functionByte {b : Byte} (h : b &&& 0xF8 = 0x20) :
    decodeWire (commandByte .functionSet b) = .ok (.functionSet (flagPd b) (flagV b) (flagH b)) := if_pos h

/-- The state in which the device is this one and has these bytes still to take. -/
def toTake (d : Device) (bytes : List WireByte) (s : State) : State := { s with dev := d, wire := bytes }

theorem toTake_self {s : State} {bytes : List WireByte} (h : s.wire = bytes) : toTake s.dev bytes s = s := by
  rw [toTake, ← h]

section
variable {s : State} (h : OutOfReset s) (d : Device) (rest : List WireByte)
include h

theorem settled_functionByte {b : Byte} (hb : b &&& 0xF8 = 0x20) :
    settled (toTake d (commandByte .functionSet b :: rest) s) =
      settled (toTake { d with pd := flagPd b, v := flagV b, h := flagH b } rest s) := by
  refine settled_of_step rfl ?_ rfl
  rw [step_of_wire rfl (decodeWire_functionByte hb)]
  exact exec_functionSet (s := toTake d rest s) h ..

variable {d}

theorem settled_displayByte (hbasic : d.h = false) :
    settled (toTake d (commandByte .displayNormal Config.displayNormal :: rest) s) =
      settled (toTake { d with mode := .normal } rest s) := by
  refine settled_of_step rfl ?_ rfl
  rw [step_of_wire (i := .displayNormal) rfl rfl]
  refine (exec_displayNormal (s := toTake d rest s) h).trans (congrArg _ ?_)
  rw [normalMode, show (toTake d rest s).dev.h = false from hbasic]
  rfl

variable (hext : d.h = true)
include hext

theorem settled_tempByte (b : Byte) :
    settled (toTake d (commandByte .temp b :: rest) s) = settled (toTake { d with temp := b } rest s) := by
  refine settled_of_step rfl ?_ rfl
  rw [step_of_wire (i := .temp b) rfl rfl]
  exact (exec_temp (s := toTake d rest s) h b).trans (congrArg _ (analogueSetting_extended hext))

theorem settled_biasByte (b : Byte) :
    settled (toTake d (commandByte .bias b :: rest) s) = settled (toTake { d with bias := b } rest s) := by
  refine settled_of_step rfl ?_ rfl
  rw [step_of_wire (i := .bias b) rfl rfl]
  exact (exec_bias (s := toTake d rest s) h b).trans (congrArg _ (analogueSetting_extended hext))

theorem settled_vopByte (contrast : Byte) :
    settled (toTake d (commandByte .setVop (vopByte contrast) :: rest) s) =
      settled (toTake { d with vop := contrast.setWidth 7 } rest s) := by
  rw [vopByte_eq_append]
  refine settled_of_step rfl ?_ rfl
  rw [step_of_wire rfl (decodeWire_setVop _)]
  exact (exec_setVop (s := toTake d rest s) h _).trans (congrArg _ (columnOrVop_extended hext _))

end

/-- The two Function Set bytes of `lcd.contrast` from a legal `FUNC` are of the table, the one extended, the other basic
with power-down clear and the direction kept. -/
theorem funcByte_bits {func : Byte} (h : func &&& 0xFC = 0x20) :
    withExtended func &&& 0xF8 = 0x20 ∧ flagH (withExtended func) = true ∧
      withBasic (withExtended func) &&& 0xF8 = 0x20 ∧ flagPd (withBasic (withExtended func)) = false ∧
      flagV (withBasic (withExtended func)) = flagV func ∧ flagH (withBasic (withExtended func)) = false := by
  revert func
  decide

theorem funcByte_of_legal {s : State} (h : FuncLegal s) : s.func &&& 0xFC = 0x20 := by
  rcases h with h | h | h | h <;> rw [h] <;> rfl

section
variable {s : State} (h : OutOfReset s)
include h

/-- The device takes the bytes of `lcd.contrast`: in the extended set its three settings, and then it is back in the
basic set, with the direction of `FUNC` (R192, R221 to R224). -/
theorem settled_contrast {func : Byte} (hf : func &&& 0xFC = 0x20) (contrast bias temp : Byte) (d : Device)
    (rest : List WireByte) :
    settled (toTake d (contrastBytes contrast bias temp func ++ rest) s) = settled (toTake { d with
      pd := false, v := flagV func, h := false, vop := contrast.setWidth 7, bias := bias, temp := temp } rest s) := by
  obtain ⟨extFixed, extH, basFixed, basPd, basV, basH⟩ := funcByte_bits hf
  simp only [contrastBytes, List.cons_append, List.nil_append]
  rw [settled_functionByte h _ _ extFixed, settled_tempByte h _ (by exact extH), settled_biasByte h _ (by exact extH),
    settled_vopByte h _ (by exact extH), settled_functionByte h _ _ basFixed, basPd, basV, basH]

/-- The device takes the bytes of `lcd.init` up to those of `lcd.clear` (R190). -/
theorem settled_configuration (p : Params) (d : Device) :
    settled (toTake d (initBytes p 0x20) s) = settled (toTake { d with
      pd := false, v := false, h := false, mode := .normal, vop := p.initVop.setWidth 7, bias := p.initBias,
      temp := p.initTemp } clearBytes s) := by
  rw [initBytes, List.cons_append, settled_functionByte h _ _ rfl, settled_contrast h rfl, settled_displayByte h _ rfl]
  rfl

theorem settlesTo_function {b : Byte} (hb : b &&& 0xF8 = 0x20) (hw : s.wire = [commandByte .functionSet b]) :
    SettlesTo (fun d => d = { s.dev with pd := flagPd b, v := flagV b, h := flagH b }) s := by
  have settles := settled_functionByte h s.dev [] hb
  rw [toTake_self hw] at settles
  exact SettlesTo.of_settled (settlesTo_of_drained rfl rfl) settles

theorem settlesTo_contrast {contrast bias temp func : Byte} (hf : func &&& 0xFC = 0x20)
    (hw : s.wire = contrastBytes contrast bias temp func) :
    SettlesTo (fun d => d = { s.dev with
      pd := false, v := flagV func, h := false, vop := contrast.setWidth 7, bias := bias, temp := temp }) s := by
  have settles := settled_contrast h hf contrast bias temp s.dev []
  rw [List.append_nil, toTake_self hw] at settles
  exact SettlesTo.of_settled (settlesTo_of_drained rfl rfl) settles

/-- The device takes the bytes of `lcd.init`, whatever it held (R190). -/
theorem settlesTo_init {p : Params} (hw : s.wire = initBytes p 0x20) :
    SettlesTo (fun d => (∀ a, a < 504 → ddramRead d.ddram a = some 0x00) ∧
      d = { pd := false, v := false, h := false, col := 0, bank := 0, ddram := d.ddram, mode := .normal,
            vop := p.initVop.setWidth 7, bias := p.initBias, temp := p.initTemp }) s := by
  have configured := settled_configuration h p s.dev
  rw [toTake_self hw] at configured
  obtain ⟨u, settles, -, blank, device, -⟩ := settled_clear (s := toTake { s.dev with
      pd := false, v := false, h := false, mode := .normal, vop := p.initVop.setWidth 7, bias := p.initBias,
      temp := p.initTemp } clearBytes s) h rfl nofun rfl
  exact ⟨u, configured.trans settles, blank, device⟩

end

/-- The second device is the first but for the cursor and the DDRAM. -/
def SameSettings (d d' : Device) : Prop := d' = { d with col := d'.col, bank := d'.bank, ddram := d'.ddram }

/-- In the basic set the device takes the bytes of `lcd.position` as addresses, of some place or other. -/
theorem settlesTo_position {s : State} {p : Params} {x y : Byte} (hp : p.legal = true) (h : OutOfReset s)
    (hbasic : s.dev.h = false)
    (hw : s.wire = [commandByte .setX (columnByte p x), commandByte .setY (bankByte p y)]) :
    SettlesTo (SameSettings s.dev) s := by
  rw [columnByte_of_legal hp] at hw
  obtain ⟨c, b, moved⟩ := addresses_dev_basic hbasic (x.setWidth 7) (bankByte p y &&& 0x3F).toNat
  refine ⟨_, settled_position h hw (bankByte_fixedBits hp y), ?_⟩
  rw [takeByte_dev, moved]
  rfl

theorem storeRun_sameSettings (run : List Byte) (s : State) : SameSettings s.dev (storeRun run s).dev := by
  rw [SameSettings, storeRun_frame]

theorem settlesTo_data {s : State} {run : List Byte} (h : OutOfReset s) (hw : s.wire = dataBytes run) :
    SettlesTo (SameSettings s.dev) s :=
  SettlesTo.of_settled
    (settlesTo_of_drained (storeRun_deviceOnly run (takeByte [] s)).wire (storeRun_sameSettings run (takeByte [] s)))
    (settled_dataBytes h (hw.trans (List.append_nil _).symm))

/-- The same of the bytes of `lcd.clear`, in whatever way the cursor steps. -/
theorem settlesTo_clear {s : State} (h : OutOfReset s) (hbasic : s.dev.h = false) (hw : s.wire = clearBytes) :
    SettlesTo (SameSettings s.dev) s := by
  have stored := storeRun_sameSettings (List.replicate 504 0x00) (takeByte originBytes s)
  have only := storeRun_deviceOnly (List.replicate 504 0x00) (takeByte originBytes s)
  have settles := settled_dataBytes h hw
  generalize storeRun (List.replicate 504 0x00) (takeByte originBytes s) = v at stored only settles
  have basic : v.dev.h = false := by rw [stored]; exact hbasic
  refine ⟨_, settles.trans (settled_position (only.outOfReset h) only.wire rfl), ?_⟩
  rw [addresses_origin basic, takeByte_dev, setDevice_dev, SameSettings, stored]
  rfl

/-! ## The promise of `Ready` (R202) -/

theorem driveRst_rstPin (level : Level) (s : State) : (driveRst level 1 s).rstPin = level := by
  rw [driveRst, if_neg (by decide)]
  split <;> rfl

theorem rstSet_going {level : Level} {s t : State} (h : rstSet level s = .going t) : t.rstPin = level := by
  obtain ⟨as, n, rfl⟩ := capabilityCall_going h
  exact driveRst_rstPin level _

theorem delay_going_rstPin {us : BitVec 32} {s t : State} (h : delay us s = .going t) : t.rstPin = s.rstPin := by
  obtain ⟨as, n, e | e⟩ := delay_cases us s
  · rw [goOn_going (e.symm.trans h)]
    rfl
  · exact nomatch e.symm.trans h

/-- The reset line ends a pulse that goes through at the inactive level (R183). -/
theorem resetSteps_going {p : Params} {s t : State} (h : resetSteps p s = .going t) : t.rstPin = p.rstInactive := by
  obtain ⟨_, -, h⟩ := andThen_eq_going h
  obtain ⟨_, -, h⟩ := andThen_eq_going h
  obtain ⟨_, -, h⟩ := andThen_eq_going h
  obtain ⟨_, -, h⟩ := andThen_eq_going h
  obtain ⟨u, hu, ht⟩ := andThen_eq_going h
  exact (delay_going_rstPin ht).trans (rstSet_going hu)

/-- In a state whose device has taken every byte: all that `Ready` promises of it, with this contrast. -/
structure ReadyNow (c : Contrast) (s : State) : Prop where
  func : s.func = 0x20 ∨ s.func = 0x22
  outOfReset : OutOfReset s
  asFunc : DeviceAsFunc s.func s.dev
  contrast : s.contrast = some c
  hasContrast : HasContrast s.dev c

theorem readyNow_of_promise {s : State} (h : ReadyPromise s) (hw : s.wire = []) (hready : s.pst = .ready)
    (hidle : s.seq = none) : ∃ c, ReadyNow c s := by
  obtain ⟨func, t, c, settles, -, out, asFunc, contrast, hasContrast⟩ := h hready hidle
  obtain rfl := Host.Outcome.next.inj ((settled_of_drained hw).symm.trans settles)
  exact ⟨c, func, out, asFunc, contrast, hasContrast⟩

theorem readyPromise_of_settlesTo {s : State} {c : Contrast} (hfunc : s.func = 0x20 ∨ s.func = 0x22)
    (hout : OutOfReset s) (hc : s.contrast = some c)
    (h : SettlesTo (fun d => DeviceAsFunc s.func d ∧ HasContrast d c) s) : ReadyPromise s := by
  obtain ⟨u, settles, asFunc, hasContrast⟩ := h
  have only := settled_deviceOnly settles
  exact fun _ _ => ⟨hfunc, u, c, settles, only.wire, only.outOfReset hout, asFunc, hc, hasContrast⟩

/-- The state `u` comes of `s` by an operation that has responded `OK`, whose bytes the device has still to take. -/
structure Awaits (func : Byte) (contrast : Option Contrast) (bytes : List WireByte) (s u : State) : Prop where
  func : u.func = func
  contrast : u.contrast = contrast
  wire : u.wire = bytes
  dev : u.dev = s.dev
  outOfReset : OutOfReset u

/-- Bytes that change the cursor and the DDRAM alone leave what is promised. -/
theorem readyPromise_of_sameSettings {s u : State} {c : Contrast} {bytes : List WireByte} (now : ReadyNow c s)
    (h : Awaits s.func s.contrast bytes s u) (hsettles : SettlesTo (SameSettings u.dev) u) : ReadyPromise u := by
  refine readyPromise_of_settlesTo (h.func ▸ now.func) h.outOfReset (h.contrast.trans now.contrast)
    (hsettles.mono fun d hd => ?_)
  rw [h.func, hd, h.dev]
  exact ⟨now.asFunc, now.hasContrast⟩

/-- What `ReadyInv` says beyond the legality of `FUNC` and of the parameters, which steps keep on their own. -/
def ReadyKept (s : State) : Prop := ReadyPromise s ∧ (s.pst ≠ .unknown → s.seq = none → OutOfReset s)

theorem readyKept_of_stopped {s : State} (h : s.pst = .unknown ∨ s.seq ≠ none) : ReadyKept s := by
  rcases h with h | h
  · exact ⟨fun hready => (nomatch h.symm.trans hready), fun hknown => absurd h hknown⟩
  · exact ⟨fun _ hidle => absurd hidle h, fun _ hidle => absurd hidle h⟩

/-- A byte taken is one of those the promise waits for. -/
theorem readyKept_of_byte {s t : State} {w : WireByte} {rest : List WireByte} (h : ReadyKept s)
    (hw : s.wire = w :: rest) (hs : step s = .next t) : ReadyKept t := by
  obtain ⟨u, hu, only⟩ := step_byte hw
  obtain rfl := Host.Outcome.next.inj (hu.symm.trans hs)
  have settles := settled_of_step hw hs only.wire
  rw [only] at settles ⊢
  refine ⟨fun hready hidle => ?_, h.2⟩
  rw [← settles]
  exact h.1 hready hidle

theorem readyKept_of_frameBufferOp {i : Instr} {s t : State} (hi : isFrameBufferOp i = true) (h : ReadyKept s)
    (hw : s.wire = []) (he : exec i s = .next t) : ReadyKept t := by
  obtain ⟨r, m, e⟩ := exec_frameBufferOp hi s
  obtain rfl := Host.Outcome.next.inj (e.symm.trans he)
  refine ⟨fun hready hidle => ?_, h.2⟩
  obtain ⟨c, now⟩ := readyNow_of_promise h.1 hw hready hidle
  exact readyPromise_of_settlesTo now.func now.outOfReset now.contrast
    (settlesTo_of_drained hw ⟨now.asFunc, now.hasContrast⟩) hready hidle

theorem exec_lcdReset_readyKept {s t : State} (he : exec .lcdReset s = .next t) : ReadyKept t := by
  rcases exec_outcomes rfl he with ⟨u, hu, -, rfl⟩ | ⟨k, e, u, -, rfl⟩ | ⟨u, -, rfl⟩ | ht
  · refine ⟨nofun, fun _ _ => ?_⟩
    have line : u.rstPin = s.cfg.rstInactive := resetSteps_going hu
    rw [OutOfReset, exec_cfg he]
    exact line ▸ rstInactive_ne_rstActive s.cfg
  · exact readyKept_of_stopped (.inl rfl)
  · exact readyKept_of_stopped (.inl rfl)
  · exact readyKept_of_stopped (.inr ht.seq)

/-- An operation that drives no reset line keeps the promise if it holds wherever the operation has responded `OK` and
its bytes are on the wire. -/
theorem readyKept_of_frames {i : Instr} {rows : List CallRow} {bytes : List WireByte} {level : Level} {s t : State}
    (hi : isControllerOp i = true) (hthrough : GoesThrough s.func rows bytes level (stepsOf s.cfg i))
    (hunknown : s.pst = .unknown → (ghostsAfter s.cfg i (ghosts s)).pst = .unknown) (h : ReadyKept s)
    (hw : s.wire = []) (hidle : s.seq = none)
    (hready : ∀ u, (ghostsAfter s.cfg i (ghosts s)).pst = .ready →
      Awaits (funcAfter rows s.func) (ghostsAfter s.cfg i (ghosts s)).contrast bytes s u → ReadyPromise u)
    (he : exec i s = .next t) : ReadyKept t := by
  rcases exec_respondedOk_or hi hthrough he with stopped | ⟨as, n, rfl⟩
  · exact readyKept_of_stopped stopped
  · have out (known : (ghostsAfter s.cfg i (ghosts s)).pst ≠ .unknown) : OutOfReset s :=
      h.2 (fun e => known (hunknown e)) hidle
    refine ⟨fun ready => hready _ ready ⟨rfl, rfl, respondedOk_wire hw, rfl, ?_⟩ ready, fun known _ => out known⟩
    exact out fun e => nomatch e.symm.trans ready

theorem funcAfter_initRows {p : Params} (h : p.legal = true) (func : Byte) : funcAfter (initRows p) func = 0x20 := by
  show withBasic (withExtended (withHorizontal p.funcReset true)) = 0x20
  rw [restored_of_legal h]
  rfl

section
variable {s t : State} (h : ReadyKept s) (hw : s.wire = []) (hidle : s.seq = none)
include h hw hidle

theorem exec_lcdInit_readyKept (hc : s.cfg.legal = true) (he : exec .lcdInit s = .next t) : ReadyKept t := by
  have through := goesThrough_initSteps s.cfg s.func
  rw [restored_of_legal hc] at through
  refine readyKept_of_frames rfl through (fun e => ?_) h hw hidle (fun u _ hu => ?_) he
  · simp [ghostsAfter, afterInit, ghosts, e]
  · rw [funcAfter_initRows hc] at hu
    refine readyPromise_of_settlesTo (.inl hu.func) hu.outOfReset hu.contrast
      ((settlesTo_init hu.outOfReset hu.wire).mono fun d ⟨_, hd⟩ => ?_)
    rw [hd, hu.func]
    exact ⟨⟨rfl, rfl, rfl, rfl⟩, rfl, rfl, rfl⟩

theorem exec_lcdAddressing_readyKept {horizontal : Bool} (he : exec (.lcdAddressingHorizontal horizontal) s = .next t) :
    ReadyKept t := by
  refine readyKept_of_frames rfl (goesThrough_addressingSteps horizontal s.func) id h hw hidle
    (fun u ready hu => ?_) he
  obtain ⟨c, now⟩ := readyNow_of_promise h.1 hw ready hidle
  obtain ⟨-, -, -, mode⟩ := now.asFunc
  have changed : ∀ func horizontal, func = 0x20 ∨ func = 0x22 →
      let v := withHorizontal func horizontal
      (v = 0x20 ∨ v = 0x22) ∧ v &&& 0xF8 = 0x20 ∧ flagPd v = false ∧ flagH v = false := by decide
  obtain ⟨value, fixed, pd, basic⟩ := changed s.func horizontal now.func
  have func : u.func = withHorizontal s.func horizontal := hu.func
  refine readyPromise_of_settlesTo (func ▸ value) hu.outOfReset (hu.contrast.trans now.contrast)
    ((settlesTo_function hu.outOfReset fixed hu.wire).mono fun d hd => ?_)
  rw [hd, func, hu.dev]
  exact ⟨⟨basic, rfl, pd, mode⟩, now.hasContrast⟩

theorem exec_lcdContrast_readyKept {contrast bias temp : Byte}
    (he : exec (.lcdContrast contrast bias temp) s = .next t) : ReadyKept t := by
  refine readyKept_of_frames rfl (goesThrough_contrastSteps contrast bias temp s.func) id h hw hidle
    (fun u ready hu => ?_) he
  obtain ⟨c, now⟩ := readyNow_of_promise h.1 hw ready hidle
  obtain ⟨-, -, -, mode⟩ := now.asFunc
  have restored : ∀ func, func = 0x20 ∨ func = 0x22 → func &&& 0xFC = 0x20 ∧ withBasic (withExtended func) = func := by
    decide
  obtain ⟨base, back⟩ := restored s.func now.func
  have func : u.func = s.func := hu.func.trans back
  refine readyPromise_of_settlesTo (func ▸ now.func) hu.outOfReset hu.contrast
    ((settlesTo_contrast hu.outOfReset base hu.wire).mono fun d hd => ?_)
  rw [hd, func, hu.dev]
  exact ⟨⟨rfl, rfl, rfl, mode⟩, rfl, rfl, rfl⟩

theorem exec_lcdPosition_readyKept {x y : Byte} (hc : s.cfg.legal = true) (he : exec (.lcdPosition x y) s = .next t) :
    ReadyKept t := by
  refine readyKept_of_frames rfl (goesThrough_positionSteps s.cfg x y s.func) id h hw hidle (fun u ready hu => ?_) he
  obtain ⟨c, now⟩ := readyNow_of_promise h.1 hw ready hidle
  exact readyPromise_of_sameSettings now hu
    (settlesTo_position hc hu.outOfReset (hu.dev ▸ now.asFunc.1) hu.wire)

theorem exec_lcdClear_readyKept (he : exec .lcdClear s = .next t) : ReadyKept t := by
  refine readyKept_of_frames rfl (goesThrough_clearSteps s.cfg s.func) id h hw hidle (fun u ready hu => ?_) he
  obtain ⟨c, now⟩ := readyNow_of_promise h.1 hw ready hidle
  exact readyPromise_of_sameSettings now hu (settlesTo_clear hu.outOfReset (hu.dev ▸ now.asFunc.1) hu.wire)

theorem exec_lcdData_readyKept {run : List Byte} (he : exec (.lcdData run) s = .next t) : ReadyKept t := by
  refine readyKept_of_frames rfl (goesThrough_dataFrame s.func run) id h hw hidle (fun u ready hu => ?_) he
  obtain ⟨c, now⟩ := readyNow_of_promise h.1 hw ready hidle
  exact readyPromise_of_sameSettings now hu (settlesTo_data hu.outOfReset hu.wire)

/-- Every operation of the Controller keeps the promise, whatever the environment does. -/
theorem exec_controllerOp_readyKept {i : Instr} (hi : isControllerOp i = true) (hc : s.cfg.legal = true)
    (he : exec i s = .next t) : ReadyKept t := by
  cases i with
  | lcdReset => exact exec_lcdReset_readyKept he
  | lcdInit => exact exec_lcdInit_readyKept h hw hidle hc he
  | lcdAddressingHorizontal horizontal => exact exec_lcdAddressing_readyKept h hw hidle he
  | lcdContrast contrast bias temp => exact exec_lcdContrast_readyKept h hw hidle he
  | lcdPosition x y => exact exec_lcdPosition_readyKept h hw hidle hc he
  | lcdClear => exact exec_lcdClear_readyKept h hw hidle he
  | lcdData run => exact exec_lcdData_readyKept h hw hidle he
  | _ => exact Bool.noConfusion hi

end

/-- A request that has a meaning asks for an operation of the FrameBuffer or of the Controller. -/
theorem kind_of_request_next {p : Params} {r : Request} {s t : State} (h : exec (decodeRequest p r) s = .next t) :
    isFrameBufferOp (decodeRequest p r) = true ∨ isControllerOp (decodeRequest p r) = true := by
  by_cases reserved : 0xB ≤ (p.row r.op).toNat
  · exact nomatch h.symm.trans (exec_request_refused reserved s)
  · exact decodeRequest_kind (by omega)

theorem step_readyKept {s t : State} (h : ReadyKept s) (hc : s.cfg.legal = true) (hs : step s = .next t) :
    ReadyKept t := by
  rcases step_next_cases hs with
    ⟨w, rest, -, hw, -, -⟩ | ⟨w, rest, -, hw, -, -⟩ | ⟨p, rest, hw, hidle, -, he⟩ | ⟨-, -, -, rfl⟩
  · exact readyKept_of_byte h hw hs
  · exact readyKept_of_byte h hw hs
  · have taken : ReadyKept (takeRequest p rest s) := by
      refine ⟨fun ready _ => ?_, h.2⟩
      obtain ⟨c, now⟩ := readyNow_of_promise h.1 hw ready hidle
      exact readyPromise_of_settlesTo (s := takeRequest p rest s) now.func now.outOfReset now.contrast
        (settlesTo_of_drained hw ⟨now.asFunc, now.hasContrast⟩) ready hidle
    rcases kind_of_request_next he with hi | hi
    · exact readyKept_of_frameBufferOp hi taken hw he
    · exact exec_controllerOp_readyKept taken hw hidle hi hc he
  · exact h

/-! ## An operation of which one call fails (R244) -/

/-- The environment does not abandon the operation in its next `n` calls (R249). -/
def RunsOn (n : Nat) (s : State) : Prop := ∀ k, s.abandonAt = some k → ∃ p, s.seq = some p ∧ p.index + n < k

theorem runsOn_of_not_abandoned {s : State} (h : s.abandonAt = none) (n : Nat) : RunsOn n s :=
  fun _ hk => nomatch h.symm.trans hk

theorem goOn_of_runsOn {n : Nat} {s : State} (h : RunsOn n s) : goOn s = .going s := by
  cases hplan : s.abandonAt with
  | none => exact goOn_of_not_abandoned hplan
  | some k =>
    obtain ⟨p, hp, hlt⟩ := h k hplan
    simp only [goOn, abandonDue, hplan, hp, decide_eq_true_eq]
    exact if_neg (by omega)

theorem RunsOn.advance {n : Nat} {s : State} (h : RunsOn (n + 1) s) : RunsOn n (advance s) := by
  intro k hk
  obtain ⟨p, hp, hlt⟩ := h k hk
  exact ⟨p.next, by rw [advance_seq, hp]; rfl, show p.index + 1 + n < k by omega⟩

/-- A call that returns `ok`: the operation goes on, unless it is abandoned there. -/
theorem makeCall_ok {c : Call} {s : State} {more : List Answer} (ha : s.answers = .ok :: more) :
    ∃ t, OutsideOnly { record c.row.event (setFunc c.row.func s) with answers := more } t ∧
      makeCall c s = goOn (advance t) := by
  obtain ⟨⟨ev, func⟩, frame⟩ := c
  cases ev with
  | rst level => exact ⟨_, driveRst_outsideOnly level 1 _, capabilityCall_ok (s := setFunc func s) ha⟩
  | dc level => exact ⟨_, driveDc_outsideOnly level 1 _, capabilityCall_ok (s := setFunc func s) ha⟩
  | bus run => exact ⟨_, deliver_outsideOnly frame run run.length _, capabilityCall_ok (s := setFunc func s) ha⟩
  | dly us =>
    refine ⟨{ record (.dly us) (setFunc func s) with answers := more }, rfl, ?_⟩
    show delay us (setFunc func s) = _
    rw [delay, takeAnswer_of_cons (s := record (.dly us) (setFunc func s)) ha]

/-- Once the first `n` calls have returned `ok`, the operation stands at the call that follows them. -/
theorem makeCalls_at {calls : List Call} {c : Call} {s : State} {p : Position} {n : Nat} {more : List Answer}
    (hc : calls[n]? = some c) (hruns : RunsOn n s) (hseq : s.seq = some p)
    (ha : s.answers = List.replicate n .ok ++ more) :
    ∃ t rest, makeCalls calls s = (makeCall c t).andThen (makeCalls rest) ∧
      Called (((calls.map Call.row).take n).map CallRow.event) (funcAfter ((calls.map Call.row).take n) s.func) s t ∧
      t.answers = more ∧ t.seq = some { op := p.op, index := p.index + n } := by
  induction n generalizing calls s p with
  | zero =>
    cases calls with
    | nil => exact nomatch hc
    | cons first rest =>
      cases hc
      exact ⟨s, rest, rfl, Called.refl s, ha, hseq⟩
  | succ n ih =>
    cases calls with
    | nil => exact nomatch hc
    | cons first rest =>
      rw [List.replicate_succ] at ha
      obtain ⟨u, outside, hcall⟩ := makeCall_ok (c := first) ha
      obtain ⟨called, answers, stays⟩ := Called.of_record outside
      have runs : RunsOn (n + 1) u := by
        rw [RunsOn, called.abandonAt, stays]
        exact hruns
      obtain ⟨t, others, hmake, later, hmore, hpos⟩ := ih (calls := rest) (s := advance u) (p := p.next) hc runs.advance
        (by rw [advance_seq, stays, hseq]; rfl) answers
      refine ⟨t, others, ?_, called.advance.cons later, hmore, ?_⟩
      · rw [makeCalls_cons, hcall, goOn_of_runsOn runs.advance, andThen_going, hmake]
      · rw [hpos, show p.index + (n + 1) = p.next.index + n from (Nat.add_right_comm p.index 1 n).symm]
        rfl

/-- The state `t` comes of `s` by an operation aborted in the last of these calls, with this error, `FUNC` at this value
and these answers left unused. -/
structure AbortedAfter (calls : List Event) (kind : ErrKind) (e : ErrVal) (func : Byte) (unused : List Answer)
    (s t : State) : Prop where
  trace : t.trace = s.trace ++ calls
  responses : t.responses = s.responses ++ [.error kind e]
  func : t.func = func
  fb : t.fb = s.fb
  pst : t.pst = .unknown
  seq : t.seq = none
  answers : t.answers = unused

/-- An operation of which the call of row `n` fails is aborted there. -/
theorem exec_aborted {i : Instr} {s : State} {rows : List CallRow} {row : CallRow} {n d : Nat} {kind : ErrKind}
    {e : ErrVal} {rest : List Answer} (hrows : stepList s.cfg i s.func = some rows) (hplan : s.abandonAt = none)
    (hrow : rows[n]? = some row) (hkind : errorOf row.event = some kind)
    (ha : s.answers = List.replicate n .ok ++ .fail e d :: rest) :
    ∃ t, exec i s = .next t ∧ AbortedAfter ((rows.take (n + 1)).map CallRow.event) kind e row.func rest s t := by
  obtain ⟨onOk, calls, rfl, he⟩ := exec_makesCalls hrows
  rw [List.getElem?_map] at hrow
  obtain ⟨c, hc, rfl⟩ := Option.map_eq_some_iff.1 hrow
  obtain ⟨t, others, hmake, called, answers, -⟩ := makeCalls_at (s := accept i s) hc
    (runsOn_of_not_abandoned (s := accept i s) hplan n) rfl ha
  obtain ⟨u, outside, hcall⟩ := makeCall_answered (c := c) answers (called.abandonAt.trans hplan)
  have ending : endingOf c.row.event (.fail e d) = .error kind e := by simp [endingOf, hkind]
  rw [ending] at hcall
  obtain ⟨last, unused, -⟩ := Called.of_record outside
  have all := (called.trans last).of_accept
  refine ⟨abort kind e u, ?_, ?_, ?_, all.func, all.fb, rfl, rfl, unused⟩
  · rw [he, operation_of_not_abandoned hplan, hmake, hcall]
    rfl
  · show u.trace = _
    rw [all.trace, List.take_add_one, List.getElem?_map, hc, List.map_append]
    rfl
  · show u.responses ++ _ = _
    rw [all.responses]

/-! ## The rows of an operation's frames

Of each row: which error its call raises, and the value of `FUNC` it leaves. -/

/-- What a failing call of a row leaves (R187, R240). -/
def failureOf (row : CallRow) : Option ErrKind × Byte := (errorOf row.event, row.func)

/-- In a list of frames the calls are drives of command/data-select and bus writes by turns, counted from 1. -/
def frameError (n : Nat) : ErrKind := if n % 2 = 1 then .dcPin else .bus

theorem row_of_failures {rows : List CallRow} {N n : Nat} {func : Nat → Byte}
    (h : rows.map failureOf = (List.range N).map fun k => (some (frameError (k + 1)), func (k + 1))) (hn : n < N) :
    ∃ row, rows[n]? = some row ∧ errorOf row.event = some (frameError (n + 1)) ∧ row.func = func (n + 1) := by
  have entry := congrArg (·[n]?) h
  simp only [List.getElem?_map, List.getElem?_range hn, Option.map_some] at entry
  obtain ⟨row, hrow, e⟩ := Option.map_eq_some_iff.1 entry
  obtain ⟨error, value⟩ := Prod.mk.inj e
  exact ⟨row, hrow, error, value⟩

/-- An operation made of frames of which the `n`-th call fails, counted from 1. -/
theorem exec_aborted_frames {i : Instr} {s : State} {rows : List CallRow} {N n d : Nat} {func : Nat → Byte} {e : ErrVal}
    {rest : List Answer} (hrows : stepList s.cfg i s.func = some rows) (hplan : s.abandonAt = none)
    (h : rows.map failureOf = (List.range N).map fun k => (some (frameError (k + 1)), func (k + 1))) (hpos : 1 ≤ n)
    (hn : n ≤ N) (ha : s.answers = List.replicate (n - 1) .ok ++ .fail e d :: rest) :
    ∃ t, exec i s = .next t ∧ AbortedAfter ((rows.map CallRow.event).take n) (frameError n) e (func n) rest s t := by
  obtain ⟨m, rfl⟩ := Nat.exists_eq_add_of_le' hpos
  obtain ⟨row, hrow, error, value⟩ := row_of_failures h (show m < N by omega)
  rw [← value, ← List.map_take]
  exact exec_aborted hrows hplan hrow error ha

theorem withBasic_withExtended (func : Byte) : withBasic (withExtended func) = func &&& 0xFE := by
  revert func
  decide

theorem contrastRows_failures (contrast bias temp func : Byte) :
    (contrastRows contrast bias temp func).map failureOf = (List.range 10).map fun k =>
      (some (frameError (k + 1)), if k + 1 ≤ 8 then func ||| 0x01 else func &&& 0xFE) := by
  rw [contrastRows, withBasic_withExtended]
  rfl

theorem contrastRows_events (contrast bias temp func : Byte) :
    (contrastRows contrast bias temp func).map CallRow.event =
      [.dc .low, .bus [func ||| 0x01], .dc .low, .bus [temp], .dc .low, .bus [bias], .dc .low,
       .bus [0x80 ||| (contrast &&& 0x7F)], .dc .low, .bus [func &&& 0xFE]] := by
  rw [contrastRows, withBasic_withExtended]
  rfl

theorem clearRows_failures (p : Params) (func : Byte) :
    (clearRows p func).map failureOf = (List.range 6).map fun k => (some (frameError (k + 1)), func) := rfl

theorem clearRows_events (p : Params) (func : Byte) :
    (clearRows p func).map CallRow.event =
      [.dc .high, .bus (List.replicate 504 0x00), .dc .low, .bus [0x80], .dc .low, .bus [0x40]] := by
  rw [clearRows, positionRows, columnByte_zero, bankByte_zero]
  rfl

theorem initRows_failures {p : Params} (h : p.legal = true) :
    (initRows p).map failureOf = (List.range 20).map fun k =>
      (some (frameError (k + 1)), if 3 ≤ k + 1 ∧ k + 1 ≤ 10 then 0x21 else 0x20) := by
  rw [initRows, addressingRows, restored_of_legal h]
  rfl

theorem initRows_events {p : Params} (h : p.legal = true) :
    (initRows p).map CallRow.event =
      [.dc .low, .bus [0x20], .dc .low, .bus [0x21], .dc .low, .bus [p.initTemp], .dc .low, .bus [p.initBias], .dc .low,
       .bus [0x80 ||| (p.initVop &&& 0x7F)], .dc .low, .bus [0x20], .dc .low, .bus [0x0C],
       .dc .high, .bus (List.replicate 504 0x00), .dc .low, .bus [0x80], .dc .low, .bus [0x40]] := by
  rw [initRows, addressingRows, restored_of_legal h, List.map_append, clearRows_events]
  rfl

/-! ## An operation that is abandoned (R249) -/

theorem funcAfter_eq_getLast (rows : List CallRow) (func : Byte) :
    funcAfter rows func = (rows.getLast?.map CallRow.func).getD func := by
  induction rows using List.reverseRecOn with
  | nil => rfl
  | append_singleton rows row _ => simp [funcAfter_append, funcAfter]

theorem goOn_of_due {s : State} {p : Position} {k : Nat} (hplan : s.abandonAt = some k) (hseq : s.seq = some p)
    (h : k ≤ p.index) : goOn s = .abandoned s := by
  simp [goOn, abandonDue, hplan, hseq, h]

/-- An operation abandoned after `k` of its calls has made those, and no other. -/
theorem exec_abandoned {i : Instr} {s : State} {rows : List CallRow} {k : Nat} {rest : List Answer}
    (hrows : stepList s.cfg i s.func = some rows) (hplan : s.abandonAt = some k) (hk : k ≤ rows.length)
    (ha : s.answers = List.replicate rows.length .ok ++ rest) :
    ∃ u, exec i s = .next (abandon u) ∧
      Called ((rows.take k).map CallRow.event) (funcAfter (rows.take k) s.func) s u := by
  obtain ⟨onOk, calls, rfl, he⟩ := exec_makesCalls hrows
  rw [he, operation_next]
  cases k with
  | zero =>
    rw [goOn_of_due (s := accept i s) hplan rfl (Nat.zero_le _)]
    exact ⟨accept i s, rfl, (Called.refl (accept i s)).of_accept⟩
  | succ m =>
    rw [List.length_map] at hk ha
    obtain ⟨c, hc⟩ : ∃ c, calls[m]? = some c := ⟨_, List.getElem?_eq_getElem hk⟩
    have runs : RunsOn m (accept i s) := fun k hk => ⟨_, rfl, by cases hplan.symm.trans hk; simp⟩
    have answers : s.answers =
        List.replicate m .ok ++ .ok :: (List.replicate (calls.length - (m + 1)) .ok ++ rest) := by
      rw [ha, show calls.length = m + 1 + (calls.length - (m + 1)) by omega, List.replicate_add, List.replicate_succ']
      simp
    obtain ⟨t, others, hmake, called, hmore, hpos⟩ := makeCalls_at (s := accept i s) hc runs rfl answers
    obtain ⟨u, outside, hcall⟩ := makeCall_ok (c := c) hmore
    obtain ⟨last, -, stays⟩ := Called.of_record outside
    have all := (called.trans last).advance.of_accept
    have due : goOn (advance u) = .abandoned (advance u) :=
      goOn_of_due (p := { op := i, index := m + 1 }) (all.abandonAt.trans hplan)
        (by rw [advance_seq, stays, hpos]; simp [Position.next]) le_rfl
    refine ⟨advance u, ?_, ?_⟩
    · rw [goOn_of_runsOn runs, andThen_going, hmake, hcall, due]
      rfl
    · rw [List.take_add_one, List.getElem?_map, hc, List.map_append, funcAfter_append]
      exact all

/-! ## Two runs with different pasts (R182, R203, R247) -/

/-- The state with another past: other responses and calls, other ghosts. -/
def withPast (responses : List Response) (trace : List Event) (pst : Pst) (contrast : Option Contrast) (s : State) :
    State :=
  { s with responses := responses, trace := trace, pst := pst, contrast := contrast }

/-- The update does the same whatever the past, and leaves it. -/
def IgnoresPast (f : State → State) : Prop :=
  ∀ responses trace pst contrast s,
    f (withPast responses trace pst contrast s) = withPast responses trace pst contrast (f s)

theorem driveDc_ignoresPast (level : Level) (n : Nat) : IgnoresPast (driveDc level n) := by
  intro _ _ _ _ s
  unfold driveDc
  split <;> rfl

theorem driveRst_ignoresPast (level : Level) (n : Nat) : IgnoresPast (driveRst level n) := by
  intro _ _ _ _ s
  unfold driveRst withPast
  split
  · rfl
  · split <;> rfl

/-! No effect of a byte reads the past. -/

theorem columnOrVop_ignoresPast (v : BitVec 7) : IgnoresPast (columnOrVop v) := by
  intro _ _ _ _ s
  unfold columnOrVop withPast
  split
  · rfl
  · split <;> rfl

theorem bankAddress_ignoresPast (y : Nat) : IgnoresPast (bankAddress y) := by
  intro _ _ _ _ s
  unfold bankAddress withPast
  split
  · rfl
  · split <;> rfl

theorem normalMode_ignoresPast : IgnoresPast normalMode := by
  intro _ _ _ _ s
  unfold normalMode withPast
  split <;> rfl

theorem basicCommand_ignoresPast (b : Byte) : IgnoresPast (basicCommand b) := by
  intro _ _ _ _ s
  unfold basicCommand
  split
  · rfl
  split
  · exact columnOrVop_ignoresPast ..
  split
  · exact bankAddress_ignoresPast ..
  split
  · exact normalMode_ignoresPast ..
  · rfl

theorem analogueSetting_ignoresPast (b : Byte) (store : Device → Device) : IgnoresPast (analogueSetting b store) := by
  intro responses trace pst contrast s
  cases h : s.dev.h with
  | false =>
    rw [analogueSetting_basic h, ← basicCommand_ignoresPast]
    exact analogueSetting_basic (s := withPast responses trace pst contrast s) h
  | true =>
    rw [analogueSetting_extended h]
    exact analogueSetting_extended (s := withPast responses trace pst contrast s) h

theorem deviceTakes_ignoresPast {effect : State → State} (h : IgnoresPast effect) :
    IgnoresPast (deviceTakes effect) := by
  intro responses trace pst contrast s
  by_cases held : s.rstPin = s.cfg.rstActive
  · rw [deviceTakes_of_held held]
    exact deviceTakes_of_held (s := withPast responses trace pst contrast s) held
  · rw [deviceTakes_of_outOfReset held, ← h]
    exact deviceTakes_of_outOfReset (s := withPast responses trace pst contrast s) held

theorem exec_busInstr_ignoresPast {i : Instr} (hi : isBusInstr i = true) :
    ∃ f, IgnoresPast f ∧ ∀ s, exec i s = .next (f s) := by
  cases i with
  | functionSet pd v ext => exact ⟨_, deviceTakes_ignoresPast fun _ _ _ _ _ => rfl, fun _ => rfl⟩
  | temp b => exact ⟨_, deviceTakes_ignoresPast (analogueSetting_ignoresPast b _), fun _ => rfl⟩
  | bias b => exact ⟨_, deviceTakes_ignoresPast (analogueSetting_ignoresPast b _), fun _ => rfl⟩
  | setVop v => exact ⟨_, deviceTakes_ignoresPast (columnOrVop_ignoresPast v), fun _ => rfl⟩
  | setX x => exact ⟨_, deviceTakes_ignoresPast (columnOrVop_ignoresPast x), fun _ => rfl⟩
  | setY y => exact ⟨_, deviceTakes_ignoresPast (bankAddress_ignoresPast y.toNat), fun _ => rfl⟩
  | displayNormal => exact ⟨_, deviceTakes_ignoresPast normalMode_ignoresPast, fun _ => rfl⟩
  | dataByte d => exact ⟨_, deviceTakes_ignoresPast fun _ _ _ _ _ => rfl, fun _ => rfl⟩
  | _ => exact Bool.noConfusion hi

/-- Two states that came of `s` and of `s` with another past: they differ in their pasts alone, and the same calls and
responses have been added to both. -/
def SameSince (s : State) (responses : List Response) (trace : List Event) (a b : State) : Prop :=
  ∃ given calls pst contrast, b = withPast (responses ++ given) (trace ++ calls) pst contrast a ∧
    a.trace = s.trace ++ calls ∧ a.responses = s.responses ++ given

section
variable {s : State} {responses : List Response} {trace : List Event}

theorem sameSince_withPast (pst : Pst) (contrast : Option Contrast) :
    SameSince s responses trace s (withPast responses trace pst contrast s) :=
  ⟨[], [], pst, contrast, by rw [List.append_nil, List.append_nil], (List.append_nil _).symm, (List.append_nil _).symm⟩

theorem SameSince.map {f : State → State} (hf : IgnoresPast f)
    (kept : ∀ a, (f a).trace = a.trace ∧ (f a).responses = a.responses) {a b : State}
    (h : SameSince s responses trace a b) : SameSince s responses trace (f a) (f b) := by
  obtain ⟨given, calls, pst, contrast, rfl, ht, hr⟩ := h
  exact ⟨given, calls, pst, contrast, hf .., (kept a).1.trans ht, (kept a).2.trans hr⟩

/-- An ending that gives a response adds it to both. -/
theorem SameSince.respond {a b : State} (h : SameSince s responses trace a b) (r : Response) :
    SameSince s responses trace (respond r a) (respond r b) := by
  obtain ⟨given, calls, pst, contrast, rfl, ht, hr⟩ := h
  refine ⟨given ++ [r], calls, pst, contrast, ?_, ht, ?_⟩
  · rw [← List.append_assoc]
    rfl
  · rw [respond_responses, hr, List.append_assoc]

/-- The ghosts may become anything. -/
theorem SameSince.setGhosts {a b : State} (h : SameSince s responses trace a b) (g g' : Ghosts) :
    SameSince s responses trace (idle { a with pst := g.pst, contrast := g.contrast })
      (idle { b with pst := g'.pst, contrast := g'.contrast }) := by
  obtain ⟨given, calls, pst, contrast, rfl, ht, hr⟩ := h
  exact ⟨given, calls, g'.pst, g'.contrast, rfl, ht, hr⟩

/-- No update of a Controller operation reads the past. -/
theorem sameSince_keptBetween : KeptBetween (SameSince s responses trace) where
  reads := by rintro a _ ⟨given, calls, pst, contrast, rfl, -⟩; exact ⟨rfl, rfl, rfl, rfl, rfl, rfl⟩
  onAccept i := SameSince.map (f := accept i) (fun _ _ _ _ _ => rfl) fun _ => ⟨rfl, rfl⟩
  onCall ev as n := by
    rintro ⟨given, calls, pst, contrast, rfl, ht, hr⟩
    refine ⟨given, calls ++ [ev], pst, contrast, ?_, ?_, hr⟩
    · rw [← List.append_assoc]
      rfl
    · rw [← List.append_assoc, ← ht]
      rfl
  onDriveDc level n :=
    SameSince.map (driveDc_ignoresPast level n) fun a => by rw [driveDc_outsideOnly level n a]; exact ⟨rfl, rfl⟩
  onDriveRst level n :=
    SameSince.map (driveRst_ignoresPast level n) fun a => by rw [driveRst_outsideOnly level n a]; exact ⟨rfl, rfl⟩
  onDeliver frame run n h _ := h.map (f := deliver frame run n) (fun _ _ _ _ _ => rfl) fun _ => ⟨rfl, rfl⟩
  onAdvance h := h.map (f := advance) (fun _ _ _ _ _ => rfl) fun _ => ⟨rfl, rfl⟩
  onSetFunc v := SameSince.map (f := setFunc v) (fun _ _ _ _ _ => rfl) fun _ => ⟨rfl, rfl⟩
  onComplete {a b} onOk h := (h.setGhosts (onOk (ghosts a)) (onOk (ghosts b))).respond .ok
  onAbort {a b} k e h := (h.setGhosts ⟨.unknown, a.contrast⟩ ⟨.unknown, b.contrast⟩).respond (.error k e)
  onAbandon {a b} h := (h.setGhosts ⟨.unknown, a.contrast⟩ ⟨.unknown, b.contrast⟩).map
    (f := fun t => loseDevice { t with wire := [] }) (fun _ _ _ _ _ => rfl) fun _ => ⟨rfl, rfl⟩

end

/-- Two runs of an instruction that answers a next state, from pasts that may differ. -/
theorem exec_sameSince (responses : List Response) (trace : List Event) (pst : Pst) (contrast : Option Contrast)
    {i : Instr} {s t : State} (he : exec i s = .next t) :
    ∃ u, exec i (withPast responses trace pst contrast s) = .next u ∧ SameSince s responses trace t u := by
  have begun : SameSince s responses trace s (withPast responses trace pst contrast s) :=
    sameSince_withPast pst contrast
  rcases kind_of_exec_next he with hi | hi | hi
  · obtain ⟨after, answer, exec_eq, -⟩ := exec_frameBufferOp_function hi
    obtain rfl := Host.Outcome.next.inj ((exec_eq s).symm.trans he)
    exact ⟨_, exec_eq _, (begun.map (f := setFb (after s.fb)) (fun _ _ _ _ _ => rfl) fun _ => ⟨rfl, rfl⟩).respond _⟩
  · obtain ⟨a, b, ha, hb, same⟩ := sameSince_keptBetween.exec_related hi begun
    obtain rfl := Host.Outcome.next.inj (ha.symm.trans he)
    exact ⟨b, hb, same⟩
  · obtain ⟨f, ignores, exec_eq⟩ := exec_busInstr_ignoresPast hi
    obtain rfl := Host.Outcome.next.inj ((exec_eq s).symm.trans he)
    refine ⟨_, exec_eq _, begun.map ignores fun a => ?_⟩
    obtain ⟨v, hv, only⟩ := exec_busInstr hi a
    obtain rfl := Host.Outcome.next.inj ((exec_eq a).symm.trans hv)
    exact ⟨only.trace, only.responses⟩

/-- Where an instruction answers no next state, it reads no state at all. -/
theorem exec_next_or_refused (i : Instr) : (∀ s, ∃ t, exec i s = .next t) ∨ ∃ r, ∀ s, exec i s = .refused r := by
  cases i with
  | reserved0xB => exact .inr ⟨_, fun _ => rfl⟩
  | reserved0xCto0xF low => exact .inr ⟨_, fun _ => rfl⟩
  | _ => exact .inl fun _ => ⟨_, rfl⟩

/-! ## `PST` and the endings of an operation (R201) -/

@[simp] theorem complete_responses (onOk : Ghosts → Ghosts) (s : State) :
    (complete onOk s).responses = s.responses ++ [.ok] := rfl
@[simp] theorem complete_pst (onOk : Ghosts → Ghosts) (s : State) : (complete onOk s).pst = (onOk (ghosts s)).pst := rfl
@[simp] theorem abort_responses (k : ErrKind) (e : ErrVal) (s : State) :
    (abort k e s).responses = s.responses ++ [.error k e] := rfl

theorem ghostsAfter_pst (p : Params) (i : Instr) (g : Ghosts) :
    (ghostsAfter p i g).pst =
      if i = .lcdReset then .reset
      else if i = .lcdInit then (if g.pst = .unknown then .unknown else .ready) else g.pst := by
  cases i with
  | lcdReset => rfl
  | lcdInit => obtain ⟨pst, contrast⟩ := g; cases pst <;> rfl
  | _ => rfl

theorem DeviceOnly.pst {s t : State} (h : DeviceOnly s t) : t.pst = s.pst := by
  rw [h]

theorem exec_pst_of_not_controllerOp {i : Instr} {s t : State} (hi : ¬isControllerOp i = true)
    (he : exec i s = .next t) : t.pst = s.pst := by
  rcases kind_of_exec_next he with h | h | h
  · obtain ⟨r, m, e⟩ := exec_frameBufferOp h s
    obtain rfl := Host.Outcome.next.inj (e.symm.trans he)
    rfl
  · exact absurd h hi
  · obtain ⟨u, e, only⟩ := exec_busInstr h s
    obtain rfl := Host.Outcome.next.inj (e.symm.trans he)
    exact only.pst

/-! ## The operations whose calls all return `ok` -/

theorem clearBytes_eq : clearBytes =
    List.replicate 504 ⟨.high, 0x00, .data⟩ ++ [⟨.low, 0x80, .setX⟩, ⟨.low, 0x40, .setY⟩] := by
  rw [clearBytes, dataBytes, List.map_replicate]
  rfl

/-- The bytes of `lcd.init` under legal parameters, for which `FUNC` is 0x20 after its first frame. -/
theorem initBytes_eq (p : Params) : initBytes p 0x20 =
    [⟨.low, 0x20, .functionSet⟩, ⟨.low, 0x21, .functionSet⟩, ⟨.low, p.initTemp, .temp⟩, ⟨.low, p.initBias, .bias⟩,
      ⟨.low, 0x80 ||| (p.initVop &&& 0x7F), .setVop⟩, ⟨.low, 0x20, .functionSet⟩, ⟨.low, 0x0C, .displayNormal⟩] ++
      (List.replicate 504 ⟨.high, 0x00, .data⟩ ++ [⟨.low, 0x80, .setX⟩, ⟨.low, 0x40, .setY⟩]) := by
  rw [initBytes, clearBytes_eq]
  rfl

theorem funcAfter_contrastRows (contrast bias temp func : Byte) :
    funcAfter (contrastRows contrast bias temp func) func = func &&& 0xFE :=
  withBasic_withExtended func

theorem exec_lcdInit_ok {s : State} {rest : List Answer} (hc : s.cfg.legal = true) (h : RunsThrough 20 rest s) :
    exec .lcdInit s =
      .next (respondedOk (afterInit s.cfg) (initRows s.cfg) (initBytes s.cfg 0x20) .low rest s.draws s) := by
  have through := goesThrough_initSteps s.cfg s.func
  rw [restored_of_legal hc] at through
  exact exec_ok rfl through h

theorem exec_lcdContrast_ok {contrast bias temp : Byte} {s : State} {rest : List Answer} (h : RunsThrough 10 rest s) :
    exec (.lcdContrast contrast bias temp) s = .next (respondedOk (afterContrast contrast bias temp)
      (contrastRows contrast bias temp s.func) (contrastBytes contrast bias temp s.func) .low rest s.draws s) :=
  exec_ok rfl (goesThrough_contrastSteps contrast bias temp s.func) h

theorem exec_lcdClear_ok {s : State} {rest : List Answer} (h : RunsThrough 6 rest s) :
    exec .lcdClear s =
      .next (respondedOk ghostsKept (clearRows s.cfg s.func) clearBytes .low rest s.draws s) :=
  exec_ok rfl (goesThrough_clearSteps s.cfg s.func) h

theorem exec_lcdAddressing_ok {horizontal : Bool} {s : State} {rest : List Answer} (h : RunsThrough 2 rest s) :
    exec (.lcdAddressingHorizontal horizontal) s = .next (respondedOk ghostsKept (addressingRows horizontal s.func)
      [commandByte .functionSet (withHorizontal s.func horizontal)] .low rest s.draws s) :=
  exec_ok rfl (goesThrough_addressingSteps horizontal s.func) h

/-- `V` is assigned, every other bit is kept (R191). -/
theorem withHorizontal_bits (func : Byte) (horizontal : Bool) :
    (withHorizontal func horizontal).getLsbD 1 = !horizontal ∧
      ∀ k, k ≠ 1 → (withHorizontal func horizontal).getLsbD k = func.getLsbD k := by
  have vert : Config.addressingVert = BitVec.twoPow 8 1 := by decide
  have beyond (k : Nat) (hk : ¬k < 8) : func.getLsbD k = false := BitVec.getLsbD_of_ge func k (by omega)
  rw [withHorizontal, vert]
  cases horizontal with
  | false => exact ⟨by simp, fun k hk => by simp [hk.symm]⟩
  | true =>
    refine ⟨by simp, fun k hk => ?_⟩
    by_cases h8 : k < 8
    · simp [h8, hk]
    · simp [beyond k h8]

end Sys2Proof.Machine

namespace Sys2Proof.Proofs

open Sys2Proof.Machine Sys2Proof.Safety

/-! ## The obligations of 42_controller_ops.md -/

/-- Settles O46: a byte taken is one the promise waits for, and where an operation of the Controller has responded `OK`
the device makes of its bytes what `Ready` promises. -/
theorem readyPromiseKept : Obligations.ReadyPromiseKept := by
  rintro s t ⟨promise, line, func, legal⟩ hs
  obtain ⟨promise', line'⟩ := step_readyKept ⟨promise, line⟩ legal hs
  exact ⟨promise', line', step_funcLegal legal func hs, (step_cfg hs).symm ▸ legal⟩

/-- Settles O23: each of the three reset writes raises, the delays before it having returned. -/
theorem resetAborts : Obligations.ResetAborts := by
  intro s e d rest plan
  have rows : stepList s.cfg .lcdReset s.func = some (resetRows s.cfg s.func) := rfl
  refine ⟨fun ha => ?_, fun ha => ?_, fun ha => ?_⟩
  · obtain ⟨t, he, h⟩ := exec_aborted (n := 0) rows plan rfl rfl ha
    exact ⟨t, he, h.trace, h.responses, h.fb, h.func, h.pst, h.answers⟩
  · obtain ⟨t, he, h⟩ := exec_aborted (n := 2) rows plan rfl rfl ha
    exact ⟨t, he, h.trace, h.responses, h.fb, h.func, h.pst, h.answers⟩
  · obtain ⟨t, he, h⟩ := exec_aborted (n := 4) rows plan rfl rfl ha
    exact ⟨t, he, h.trace, h.responses, h.fb, h.func, h.pst, h.answers⟩

/-- Settles O24: the ten frames go through, with the rows and bytes of legal parameters. -/
theorem initSendsItsFrames : Obligations.InitSendsItsFrames := by
  intro s rest hc h vop
  rw [exec_lcdInit_ok hc h, respondedOk, funcAfter_initRows hc, initRows_events hc, initBytes_eq, h.2]
  simp only [← List.append_assoc]
  rfl

/-- Settles O25, by the error and the `FUNC` of each of the twenty rows. -/
theorem initFailsAtNthCall : Obligations.InitFailsAtNthCall := by
  intro s n e d rest hc plan hpos hn ha
  obtain ⟨t, he, h⟩ := exec_aborted_frames (i := .lcdInit) (func := fun n => if 3 ≤ n ∧ n ≤ 10 then 0x21 else 0x20)
    rfl plan (initRows_failures hc) hpos hn ha
  exact ⟨t, he, h.responses, initRows_events hc ▸ h.trace, h.func, h.fb, h.pst, h.seq, h.answers⟩

/-- Settles O26: the value has `V` assigned, and `FUNC` holds it before either call of its one frame. -/
theorem addressingSendsFunctionSet : Obligations.AddressingSendsFunctionSet := by
  intro s horizontal plan v
  have value : withHorizontal s.func horizontal = v := rfl
  have rows : stepList s.cfg (.lcdAddressingHorizontal horizontal) s.func = some (addressingRows horizontal s.func) :=
    rfl
  refine ⟨value ▸ withHorizontal_bits s.func horizontal, fun rest ha => ?_, fun e d rest ha => ?_,
    fun e d rest ha => ?_⟩
  · rw [exec_lcdAddressing_ok ⟨ha, plan⟩, plan]
    rfl
  · obtain ⟨t, he, h⟩ := exec_aborted (n := 0) rows plan rfl rfl ha
    exact ⟨t, he, h.func, h.trace, h.responses, h.fb⟩
  · obtain ⟨t, he, h⟩ := exec_aborted (n := 1) rows plan rfl rfl ha
    exact ⟨t, he, h.func, h.trace, h.responses, h.fb⟩

/-- Settles O27: the five frames go through, and the basic value of `FUNC` is the same from either set. -/
theorem contrastSendsItsFrames : Obligations.ContrastSendsItsFrames := by
  intro s contrast bias temp rest h ext vop bas
  rw [exec_lcdContrast_ok h, respondedOk, contrastRows_events, contrastBytes, withBasic_withExtended,
    funcAfter_contrastRows, h.2]
  rfl

/-- Settles O28, by the error and the `FUNC` of each of the ten rows. -/
theorem contrastFailsAtNthCall : Obligations.ContrastFailsAtNthCall := by
  intro s contrast bias temp n e d rest plan hpos hn ha
  obtain ⟨t, he, h⟩ := exec_aborted_frames (i := .lcdContrast contrast bias temp)
    (func := fun n => if n ≤ 8 then s.func ||| 0x01 else s.func &&& 0xFE)
    rfl plan (contrastRows_failures contrast bias temp s.func) hpos hn ha
  exact ⟨t, he, h.responses, contrastRows_events contrast bias temp s.func ▸ h.trace, h.func, h.fb, h.pst, h.seq⟩

/-- Settles O29: its two frames go through. -/
theorem positionSendsItsFrames : Obligations.PositionSendsItsFrames :=
  fun _ _ _ _ => exec_lcdPosition_ok

/-- Settles O30: its three frames go through, or one of their six calls fails. -/
theorem clearSendsItsFrames : Obligations.ClearSendsItsFrames := by
  refine fun s plan => ⟨fun rest ha => ?_, fun n e d rest hpos hn ha => ?_⟩
  · rw [exec_lcdClear_ok ⟨ha, plan⟩, respondedOk, clearRows_events, clearBytes_eq, plan, ← List.append_assoc]
    rfl
  · obtain ⟨t, he, h⟩ := exec_aborted_frames (i := .lcdClear) (func := fun _ => s.func) rfl plan
      (clearRows_failures s.cfg s.func) hpos hn ha
    exact ⟨t, he, h.responses, clearRows_events s.cfg s.func ▸ h.trace, h.fb, h.func⟩

/-- Settles O34: the calls up to the plan's number are made, and then the operation is abandoned. -/
theorem abandonedAfterCalls : Obligations.AbandonedAfterCalls := by
  intro s i rows k rest hrows plan hk ha
  obtain ⟨u, he, h⟩ := exec_abandoned hrows plan hk ha
  rw [funcAfter_eq_getLast] at h
  exact ⟨abandon u, he, h.trace, h.responses, h.func, h.fb, rfl, rfl, rfl, rfl⟩

/-- Settles O38, by the four ways an operation of the Controller ends. -/
theorem protocolStateTransitions : Obligations.ProtocolStateTransitions := by
  intro s t i he
  split
  · next hi =>
    rcases exec_outcomes hi he with ⟨u, -, h, rfl⟩ | ⟨k, e, u, h, rfl⟩ | ⟨u, h, rfl⟩ | h
    · refine .inl ⟨by rw [complete_responses, h.responses], rfl, ?_⟩
      rw [complete_pst, h.ghosts, ghostsAfter_pst]
      rfl
    · exact .inr (.inl ⟨k, e, by rw [abort_responses, h.responses], rfl, rfl⟩)
    · exact .inr (.inr (.inl ⟨h.responses, rfl, rfl⟩))
    · exact .inr (.inr (.inr ⟨h.responses, h.seq, congrArg Ghosts.pst h.ghosts⟩))
  · next hi => exact exec_pst_of_not_controllerOp hi he

/-- Settles O39: an instruction that answers a next state keeps two pasts apart in the past alone; the others are the
reserved rows, which read no state. -/
theorem noMemoryOfThePast : Obligations.NoMemoryOfThePast := by
  intro s i rs tr p c
  rcases exec_next_or_refused i with answers | ⟨r, refuses⟩
  · obtain ⟨a, ha⟩ := answers s
    obtain ⟨b, hb, given, calls, pst, contrast, rfl, htrace, hresponses⟩ := exec_sameSince rs tr p c ha
    rw [ha, show exec i { s with responses := rs, trace := tr, pst := p, contrast := c } = _ from hb]
    exact ⟨rfl, calls, given, htrace, rfl, hresponses, rfl⟩
  · rw [refuses, refuses]

/-- Settles O57: the device takes the bytes of the five frames, whatever set it was in. -/
theorem contrastProgramsDevice : Obligations.ContrastProgramsDevice := by
  intro s contrast bias temp rest hf hw hout h
  obtain ⟨u, settles, device⟩ := settlesTo_contrast (s := respondedOk (afterContrast contrast bias temp)
    (contrastRows contrast bias temp s.func) (contrastBytes contrast bias temp s.func) .low rest s.draws s)
    hout (funcByte_of_legal hf) (respondedOk_wire hw)
  exact ⟨_, u, exec_lcdContrast_ok h, settles, (settled_deviceOnly settles).wire, device⟩

/-- Settles O59: the device takes the bytes of the ten frames, whatever it held. -/
theorem initConfiguresDevice : Obligations.InitConfiguresDevice := by
  intro s rest hc hw hout h
  obtain ⟨u, settles, blank, device⟩ := settlesTo_init (s := respondedOk (afterInit s.cfg) (initRows s.cfg)
    (initBytes s.cfg 0x20) .low rest s.draws s) hout (p := s.cfg) (respondedOk_wire hw)
  have only := settled_deviceOnly settles
  exact ⟨_, u, exec_lcdInit_ok hc h, settles, only.wire, only.func.trans (funcAfter_initRows hc s.func), only.fb, blank,
    device⟩

end Sys2Proof.Proofs

end

/-! PROOFS. The obligation of 70_reset_and_hazards.md, which rests on `step_of_idle` of the step's laws. -/

section

namespace Sys2Proof.Proofs

open Sys2Proof.Machine

/-- Settles O6: a step of an idle block fetches nothing. -/
theorem idleBlockWaits : Obligations.IdleBlockWaits :=
  fun _ => step_of_idle

end Sys2Proof.Proofs

end
